-- ==== Sys2Proof/Word.lean ====
section
/-! DEFINITION. The word types of the block and its text: bytes, 4-bit digits, ASCII text, 5-byte frames
(00_scope.md rules R6, R7, R8). -/
namespace Sys2Proof

/-- A byte; bit 0 is the least significant bit (R7). -/
abbrev Byte := BitVec 8

/-- A 4-bit nibble (R9 `hexval`). -/
abbrev Nibble := BitVec 4

/-- A string: its ASCII characters, one byte each, leftmost first (R8, decision D5; DEDUCED, log entry 13). -/
abbrev Text := List Byte

/-- A command frame: exactly 5 bytes, `frame[0]` first on the wire (R51, R53, R70). -/
abbrev Frame := Vector Byte 5

/-- The ASCII code of a character (R8). -/
def charByte (c : Char) : Byte := BitVec.ofNat 8 c.toNat

/-- The text of a list of characters (R8). -/
def ascii (cs : List Char) : Text := cs.map charByte

end Sys2Proof
end

