-- ==== Sys2Proof/Machine/State.lean ====
section
/-! DEFINITION. The state of the block (10_state.md rule R21), its ports (30_encoding.md rule R73), what the host has yet to
do to it, the reasons a step can stop, and the state after reset (rule R38). The configuration is no state (R21) and stands
in WellFormed.lean. The block has no memory, no program counter and no general registers (R22, R23, R50). -/
namespace Sys2Proof.Machine

/-- A held register (R27, R28): it holds no value until it is first written (`valid` = 0), and one value after that
(`valid` = 1). The empty case is the spec's own state, not a missing reset value (R38; DEDUCED, log entry 3). -/
inductive Held (α : Type) where
  | empty
  | holds (v : α)
deriving DecidableEq, Repr

/-- The value of `FREQ_REG` (R24). -/
structure FreqReading where
  /-- frequencyHz, unsigned (R6). -/
  hz : BitVec 32
  /-- displayDigits: 9 ASCII characters, `disp[0]` leftmost. -/
  disp : Vector Byte 9
  /-- The mode byte code (decision D36). -/
  mode : Byte
deriving DecidableEq, Repr

/-- The value of `CLASS_REG` (R26). -/
structure Classification where
  region : Text
  band : Text
  note : Text
deriving DecidableEq, Repr

/-- `FAULT` (R31): code 0 none, 1 `F_ILLEGAL_CMD`, 2 `F_EMPTY_REG`, 3 reserved. -/
structure FaultReg where
  code : BitVec 2
  cmd : Byte
deriving DecidableEq, Repr

/-- An event of the transmit history (R34, R100, R101). -/
inductive TxEvent where
  | emit (frame : Frame)
  | gap (ms : Nat)
deriving DecidableEq, Repr

/-- A cell of the S-meter bar (R171). -/
inductive Symbol where
  | mark
  | alt
  | dot
deriving DecidableEq, Repr

/-- The record on the `sm_out` port (R171). -/
structure SmOut where
  label : Text
  cells : List Symbol
deriving DecidableEq, Repr

/-- The input ports the host drives for one step (R73). -/
structure InPorts where
  /-- `cmd`, the command word. -/
  cmd : Byte
  /-- `rx[0..4]`, the received bytes, `rx[0]` first received. -/
  rx : Vector Byte 5
  /-- `rx_count`: how many bytes the transport returned (R75). -/
  rxCount : BitVec 3
  /-- `lvl`, the level of FMTS with source 0. -/
  lvl : BitVec 5
deriving DecidableEq, Repr

/-- What a host read names: a field of a register, or its `valid` bit (R27, R39, R73, R254). -/
inductive ReadPort where
  | freqValid | freqHz | freqDisp | freqMode
  | statusValid | statusWord
  | classValid | classRegion | classBand | classNote
  | lastErr
  | fault
deriving DecidableEq, Repr

/-- What a host read gives. -/
inductive ReadValue where
  | bit (b : Bool)
  | hz (v : BitVec 32)
  | disp (v : Vector Byte 9)
  | byte (v : Byte)
  | text (v : Text)
  | lastErr (v : BitVec 16)
  | fault (v : FaultReg)
deriving DecidableEq, Repr

/-- One thing the host, or the platform, does to the block (R20, R39, R74, R250). -/
inductive HostAction where
  /-- Present a command word, with the values of the other input ports: one step of R74. -/
  | present (p : InPorts)
  /-- Read a register between two steps (R39). -/
  | read (r : ReadPort)
  /-- Apply reset (R250). -/
  | reset
deriving DecidableEq, Repr

/-- Why the machine stops with a fault. -/
inductive Fault where
  /-- A command word was presented while `FAULT.code` ≠ 0: the block has no step until reset (R74, R226). Raised by
  `runWord`, which `step` calls; it carries the sticky `FAULT`. Safe: the spec gives such a state no step (DESIGN CHOICE,
  log entry 5). -/
  | blockFaulted (code : BitVec 2) (cmd : Byte)
deriving DecidableEq, Repr

/-- Why the model gives no meaning. -/
inductive Refusal where
  /-- An instruction without a meaning yet, by its mnemonic; no arm of `exec` answers it. Safe. -/
  | notModelled (mnemonic : String)
  /-- RUNMACRO with a name that matches no `MACRO_NAME[m]`: a host error before any block step (R194, decision D15).
  Raised by `Session.runMacro` only, never by `exec` or `step`. Safe (DESIGN CHOICE, log entry 18). -/
  | unknownMacroName
deriving DecidableEq, Repr

/-- The block, its ports, and the host actions still to come. -/
structure State where
  /-- `FREQ_REG` (R24). -/
  freqReg : Held FreqReading
  /-- `STATUS_REG` (R25): its 8-bit word. -/
  statusReg : Held Byte
  /-- `CLASS_REG` (R26). -/
  classReg : Held Classification
  /-- `LAST_ERR` (R29). -/
  lastErr : BitVec 16
  /-- `FAULT` (R31). -/
  fault : FaultReg
  /-- `TXH`, the transmit history, oldest first (R34). -/
  txh : List TxEvent
  /-- The input ports as the host drives them (R73). -/
  ports : InPorts
  /-- The `tx` port: the events of the last step (R73, R76); the empty list is its absence of output (log entry 7). -/
  txOut : List TxEvent
  /-- The `sm_out` port after the last step; none is its absence of output (R76; DESIGN CHOICE, log entry 7). -/
  smOut : Option SmOut
  /-- What the last host action read, if it was a read that gave a value (R39; DESIGN CHOICE, log entry 8). -/
  rdOut : Option ReadValue
  /-- What the host will do, the next action first (R23: the order is the host's; DESIGN CHOICE, log entry 1). -/
  pending : List HostAction
deriving DecidableEq, Repr

/-- The state after reset (R38, R250). The ports are inputs and have no reset value in the spec: all 0 (DESIGN
CHOICE, unsafe, log entry 6).
The host has presented nothing yet (R251). -/
def State.reset : State where
  freqReg := .empty
  statusReg := .empty
  classReg := .empty
  lastErr := 0x0000
  fault := ⟨0, 0x00⟩
  txh := []
  ports := ⟨0x00, #v[0x00, 0x00, 0x00, 0x00, 0x00], 0, 0⟩
  txOut := []
  smOut := none
  rdOut := none
  pending := []

end Sys2Proof.Machine
end

