-- ==== Sys2Proof/Machine/Flags.lean ====
section
/-! DEFINITION. The bit fields the block computes: the fields of `STATUS_REG.word` (10_state.md rule R25), the `valid` bits
(R32) and the fields of `LAST_ERR` (R29). There are no condition codes (R32). -/
namespace Sys2Proof.Machine

/-- The `valid` bit of a held register (R27, R28, R32). -/
def Held.valid {α : Type} : Held α → Bool
  | .empty => false
  | .holds _ => true

/-- SQL, `word[7]`: squelchClosed (R25). -/
def statusSql (word : Byte) : BitVec 1 := word.extractLsb' 7 1

/-- TMM, `word[6]`: subToneMismatch (R25). -/
def statusTmm (word : Byte) : BitVec 1 := word.extractLsb' 6 1

/-- DCEN, `word[5]`: discriminatorCentered (R25). -/
def statusDcen (word : Byte) : BitVec 1 := word.extractLsb' 5 1

/-- SLVL, `word[4:0]`: sMeterLevel (R25). -/
def statusLevel (word : Byte) : BitVec 5 := word.extractLsb' 0 5

/-- `sql ++ tmm ++ dcen ++ slvl` (R25, R150). -/
def packStatus (sql tmm dcen : BitVec 1) (slvl : BitVec 5) : Byte := sql ++ tmm ++ dcen ++ slvl

/-- The error kinds of `LAST_ERR` (R29, R221). -/
inductive ErrKind where
  | transportTimeout
  | malformedResponse
deriving DecidableEq, Repr

/-- The error causes of `LAST_ERR` (R29, R221). -/
inductive ErrCause where
  | shortRead
  | excessBytes
  | badDigit
  | badMode
deriving DecidableEq, Repr

/-- The `KIND` code (R29). -/
def ErrKind.code : ErrKind → BitVec 2
  | .transportTimeout => 1
  | .malformedResponse => 2

/-- The `CAUSE` code (R29). -/
def ErrCause.code : ErrCause → BitVec 2
  | .shortRead => 0
  | .excessBytes => 1
  | .badDigit => 2
  | .badMode => 3

/-- A soft error, as `raise SoftError` takes it (R222). -/
structure SoftError where
  kind : ErrKind
  cause : ErrCause
  /-- 0 = DECF, 1 = DECS. -/
  src : BitVec 1
  aux : BitVec 3
  value : Byte
deriving DecidableEq, Repr

/-- `kind[1:0] ++ cause[1:0] ++ src[0] ++ aux[2:0] ++ value[7:0]` (R222). -/
def SoftError.word (e : SoftError) : BitVec 16 := e.kind.code ++ e.cause.code ++ e.src ++ e.aux ++ e.value

/-- `KIND`, bits 15:14 (R29). -/
def lastErrKind (w : BitVec 16) : BitVec 2 := w.extractLsb' 14 2

/-- `CAUSE`, bits 13:12 (R29). -/
def lastErrCause (w : BitVec 16) : BitVec 2 := w.extractLsb' 12 2

/-- `SRC`, bit 11 (R29). -/
def lastErrSrc (w : BitVec 16) : BitVec 1 := w.extractLsb' 11 1

/-- `AUX`, bits 10:8 (R29). -/
def lastErrAux (w : BitVec 16) : BitVec 3 := w.extractLsb' 8 3

/-- `VAL`, bits 7:0 (R29). -/
def lastErrVal (w : BitVec 16) : Byte := w.extractLsb' 0 8

/-- The fault codes (R31, R224). -/
inductive FaultKind where
  /-- `F_ILLEGAL_CMD` -/
  | illegalCmd
  /-- `F_EMPTY_REG` -/
  | emptyReg
deriving DecidableEq, Repr

/-- The code of a fault (R224). -/
def FaultKind.code : FaultKind → BitVec 2
  | .illegalCmd => 1
  | .emptyReg => 2

end Sys2Proof.Machine
end

