-- ==== Sys2Proof/Config.lean ====
section
/-! DEFINITION. The configuration of the block (00_scope.md rule R5): the constants the spec fixes, and the record of the
parameters it leaves OPEN. `WellFormed.lean` checks such a record and declares the one the machine runs with. -/
namespace Sys2Proof

/-- `MODE_SET`, the closed set of the 10 legal mode codes (R5, R84). -/
def modeSet : List Byte := [0x00, 0x01, 0x02, 0x03, 0x04, 0x08, 0x82, 0x83, 0x84, 0x88]

/-- `GLYPH_MARK`, the vertical bar (R5). -/
def glyphMark : Byte := charByte '|'

/-- `GLYPH_DOT`, the full stop (R5). -/
def glyphDot : Byte := charByte '.'

/-- `INTER_FRAME_DELAY_MS` (R5, R256). -/
def interFrameDelayMs : Nat := 500

/-- `FREQ_TIMEOUT_MS` (R5, R264). -/
def freqTimeoutMs : Nat := 1000

/-- `FREQ_POLL_MS` (R5, R264). -/
def freqPollMs : Nat := 50

/-- `READ_TIMEOUT_MS` (R5, R265). -/
def readTimeoutMs : Nat := 200

/-- `BAUD` (R5): no rule of the step reads it (R262). -/
def baud : Nat := 57600

/-- `STOP_BITS` (R5): no rule of the step reads it (R262). -/
def stopBits : Nat := 2

/-- The OPEN parameters of R5. They are parameters of the step and not state (R21): nothing writes them (R33, R62). -/
structure Config where
  /-- `FRAME_RDFREQ`: OPEN (decision D14). -/
  frameRdFreq : Frame
  /-- `FRAME_RDSTAT`: OPEN (decision D14). -/
  frameRdStat : Frame
  /-- `MACRO[0..3]`: OPEN, 1 to 5 frames each (decision D15). -/
  macros : Vector (List Frame) 4
  /-- `MACRO_NAME[0..3]`: pairwise distinct, 0 and 1 fixed by decision D15. -/
  macroNames : Vector Text 4
  /-- `MODE_LABEL` as a table from code to label; only the label of 0x01 is fixed (decision D16). -/
  modeLabels : List (Byte × Text)
  /-- `SMETER_EXT[0..15]`: the S-meter extension table, OPEN (decision D12). -/
  smeterExt : Vector (BitVec 5) 16
  /-- `GLYPH_ALT`: OPEN, neither of the two fixed glyphs (decision D17). -/
  glyphAlt : Byte
  /-- `CLASSIFY`: an OPEN total function (decision D21). -/
  classify : BitVec 32 → Text
  /-- `BAND_NAME`: an OPEN total function (decision D21). -/
  bandName : BitVec 32 → Text
  /-- `LEGALITY_NOTE`, of the 9-character display string: an OPEN total function (R127, decision D21). -/
  legalityNote : Vector Byte 9 → Text
  /-- `DATA_BITS`: OPEN; no rule of the block reads it (R5, N12). -/
  dataBits : Nat
  /-- `PARITY`: OPEN; the spec gives it no type, so it is an uninterpreted name (R5, N12; DESIGN CHOICE, log entry 10). -/
  parity : Text

/-- `MODE_LABEL(c)`: the label of a mode code, where the table gives one (R5, R24). -/
def Config.modeLabel (cfg : Config) (c : Byte) : Option Text := cfg.modeLabels.lookup c

/-- The identity extension table, the reference default of `SMETER_EXT` (R5, R153). -/
def identityExt : Vector (BitVec 5) 16 := Vector.ofFn fun r => BitVec.ofNat 5 r

/-- `REFCFG` of 95_test_vectors.md, with the symbolic macro frames given arbitrary distinct bytes and the symbolic
classifier given functions that tell their arguments apart. It shows that a well-formed configuration exists and
serves the tests; no rule and no meaning uses it (93_implementation_defined.md G1; PRESUMED, log entry 19). -/
def Config.reference : Config where
  frameRdFreq := #v[0x00, 0x00, 0x00, 0x00, 0x03]
  frameRdStat := #v[0x00, 0x00, 0x00, 0x00, 0xE7]
  macros := #v[[#v[0xA0, 0, 0, 0, 1], #v[0xA1, 0, 0, 0, 2]], [#v[0xB0, 0, 0, 0, 3]],
    [#v[0xC0, 0, 0, 0, 4]], [#v[0xD0, 0, 0, 0, 5]]]
  macroNames := #v[ascii ['g', 'b', '3', 't', 's'], ascii ['g', 'b', '3', 'n', 't'], ascii ['m', '2'], ascii ['m', '3']]
  modeLabels :=
    [(0x00, ascii ['L', 'S', 'B']), (0x01, ascii ['U', 'p', 'p', 'e', 'r', ' ', 'S', 'i', 'd', 'e', 'b', 'a', 'n', 'd']),
     (0x02, ascii ['C', 'W']), (0x03, ascii ['C', 'W', 'R']), (0x04, ascii ['A', 'M']), (0x08, ascii ['F', 'M']),
     (0x82, ascii ['C', 'W', 'N']), (0x83, ascii ['C', 'W', 'R', 'N']), (0x84, ascii ['A', 'M', 'N']),
     (0x88, ascii ['F', 'M', 'N'])]
  smeterExt := identityExt
  glyphAlt := charByte '#'
  classify := fun hz => [hz.extractLsb' 24 8, hz.extractLsb' 16 8]
  bandName := fun hz => [hz.extractLsb' 8 8, hz.extractLsb' 0 8]
  legalityNote := fun disp => disp.toList
  dataBits := 8
  parity := ascii ['N']

end Sys2Proof
end

