-- ==== Sys2Proof/Machine/Operands.lean ====
section
/-! DEFINITION. Operands: the entries of the frame ROM (20_memory.md rule R51), the digits and the status bits of a
received response (30_encoding.md rules R71, R72) and the level FMTS renders (43_smeter_lut.md rule R170). -/
namespace Sys2Proof.Machine

/-- The six entry names of the frame ROM (R51). -/
inductive RomId where
  | rdFreq
  | rdStat
  | macroAt (m : BitVec 2)
deriving DecidableEq, Repr

/-- `RomRead(id)`: the frames of the entry, unchanged (R52). -/
def romRead (cfg : Config) : RomId → List Frame
  | .rdFreq => [cfg.frameRdFreq]
  | .rdStat => [cfg.frameRdStat]
  | .macroAt m => cfg.macros.get m.toFin

/-- The high nibble `b[7:4]` (R54). -/
def highNibble (b : Byte) : Nibble := b.extractLsb' 4 4

/-- The low nibble `b[3:0]` (R54). -/
def lowNibble (b : Byte) : Nibble := b.extractLsb' 0 4

/-- The 8 digits of a frequency response: `d[2i] = rx[i][7:4]`, `d[2i+1] = rx[i][3:0]` for i = 0..3 (R54, R121). -/
def responseDigits (rx : Vector Byte 5) : Vector Nibble 8 :=
  #v[highNibble rx[0], lowNibble rx[0], highNibble rx[1], lowNibble rx[1],
     highNibble rx[2], lowNibble rx[2], highNibble rx[3], lowNibble rx[3]]

/-- The first digit above 9, with its position counted from `p` (R125: the lowest position is reported). -/
def firstBadDigitFrom (p : Nat) : List Nibble → Option (Nat × Nibble)
  | [] => none
  | d :: ds => if 9 < d.toNat then some (p, d) else firstBadDigitFrom (p + 1) ds

/-- The first digit above 9 of a response, with its position 0..7 (R125). -/
def firstBadDigit (ds : Vector Nibble 8) : Option (Nat × Nibble) := firstBadDigitFrom 0 ds.toList

/-- The raw S-meter field `b[3:0]` of a status byte; bit 4 is not part of it (R72, R154). -/
def rawLevel (b : Byte) : Nibble := b.extractLsb' 0 4

/-- `SMETER_EXT[raw]` (R153). -/
def extendLevel (cfg : Config) (raw : Nibble) : BitVec 5 := cfg.smeterExt.get raw.toFin

end Sys2Proof.Machine
end

