-- ==== Sys2Proof/Syntax.lean ====
section
/-! DEFINITION. The instruction set: one constructor per row of spec/opcode_table.json (30_encoding.md rule R78). -/
namespace Sys2Proof

/-- A legal command word, its operand fields pulled out (R78, R79). Each operand has exactly the width of its field,
so every term of this type is a legal instruction: R79's four macros and two level sources. -/
inductive Instr where
  /-- ENCF: emit the read-frequency frame (R102). -/
  | encf
  /-- ENCS: emit the read-status frame (R103). -/
  | encs
  /-- ENCM m: emit the frames of macro `m`, with gaps (R104). -/
  | encm (m : BitVec 2)
  /-- DECF: decode a frequency/mode response and commit it (R120). -/
  | decf
  /-- DECS: decode a status response and commit it (R150). -/
  | decs
  /-- FMTS s: render an S-meter level; `s` selects its source (R170). -/
  | fmts (s : BitVec 1)
  /-- CLRE: clear the last-error slot (R190). -/
  | clre
deriving DecidableEq, Repr

end Sys2Proof
end

