-- ==== Sys2Proof/WellFormed.lean ====
section
/-! DEFINITION. Which configurations are well-formed (00_scope.md rule R5, 70_reset_and_hazards.md rule R252), the type
of those that are, and the one the machine runs with. Instructions need no check: the operand types of `Instr` have
exactly the values R79 allows; the assembler's operands, which are plain numbers, are checked in Machine/Assembler.lean. -/
namespace Sys2Proof

/-- Each macro has 1 to 5 frames (R5, R51). The 5 bytes of a frame are its type's. -/
def Config.macroLengthsOk (cfg : Config) : Bool :=
  cfg.macros.toList.all fun fs => decide (1 ≤ fs.length ∧ fs.length ≤ 5)

/-- The macro names are pairwise distinct (R5, R252). -/
def Config.macroNamesDistinct (cfg : Config) : Bool := decide cfg.macroNames.toList.Nodup

/-- Names 0 and 1 are `gb3ts` and `gb3nt` (R5, R106, decision D15). -/
def Config.macroNamesBound (cfg : Config) : Bool :=
  decide (cfg.macroNames[0] = ascii ['g', 'b', '3', 't', 's'] ∧ cfg.macroNames[1] = ascii ['g', 'b', '3', 'n', 't'])

/-- `MODE_LABEL` is defined on all of `MODE_SET` (R5, R252). -/
def Config.modeLabelsTotal (cfg : Config) : Bool := modeSet.all fun c => (cfg.modeLabel c).isSome

/-- `MODE_LABEL(0x01)` is "Upper Sideband" (R5, R84). -/
def Config.upperSidebandOk (cfg : Config) : Bool :=
  decide (cfg.modeLabel 0x01 =
    some (ascii ['U', 'p', 'p', 'e', 'r', ' ', 'S', 'i', 'd', 'e', 'b', 'a', 'n', 'd']))

/-- `GLYPH_ALT` differs from `GLYPH_MARK` and `GLYPH_DOT` (R5, R252). -/
def Config.glyphAltOk (cfg : Config) : Bool := decide (cfg.glyphAlt ≠ glyphMark ∧ cfg.glyphAlt ≠ glyphDot)

/-- Every constraint of R5. A configuration that breaks one is refused before any step (R252). -/
def Config.wf (cfg : Config) : Bool :=
  cfg.macroLengthsOk && cfg.macroNamesDistinct && cfg.macroNamesBound && cfg.modeLabelsTotal &&
    cfg.upperSidebandOk && cfg.glyphAltOk

/-- A well-formed configuration. The model has no state and no step for any other (R252). The default value shows only
that the type is inhabited. -/
structure WfConfig where
  cfg : Config := Config.reference
  ok : cfg.wf = true := by decide
deriving Inhabited

/-- The configuration the block was built with: an uninterpreted constant, of which nothing is known but that it is
well-formed (R5's OPEN parameters; DESIGN CHOICE, log entry 4). -/
opaque Config.installed : WfConfig

end Sys2Proof
end

