-- ==== Sys2Proof/Machine/Ops.lean ====
section
/-! DEFINITION. The named operations every meaning is built from (the primitives of 00_scope.md rule R9): the output ports,
`Emit` and `Gap`, register reads and commits, raising a soft error and a fault, host reads and reset. -/
namespace Sys2Proof.Machine

/-- The start of a step: the output ports carry nothing until the step drives them (R76). -/
def State.quiet (s : State) : State := { s with txOut := [], smOut := none }

/-- Append events to `TXH` and to this step's `tx` output (R100, R101). -/
def State.transmit (s : State) (es : List TxEvent) : State :=
  { s with txh := s.txh ++ es, txOut := s.txOut ++ es }

/-- `Emit(frame)` (R100). -/
def State.emit (s : State) (f : Frame) : State := s.transmit [.emit f]

/-- `Gap(ms)` (R101). -/
def State.gap (s : State) (ms : Nat) : State := s.transmit [.gap ms]

/-- The frames after the first of a sequence: each one a gap and then the frame (R104, the loop from i = 1). -/
def State.emitRest (s : State) : List Frame → State
  | [] => s
  | f :: fs => ((s.gap interFrameDelayMs).emit f).emitRest fs

/-- The frames of a ROM entry in table order, with a gap between two consecutive frames and nowhere else (R104, R105). -/
def State.emitFrames (s : State) : List Frame → State
  | [] => s
  | f :: fs => (s.emit f).emitRest fs

/-- `Out(sm_out, o)` (R76). -/
def State.driveSm (s : State) (o : SmOut) : State := { s with smOut := some o }

/-- `raise SoftError(...)`: the error goes to `LAST_ERR`, every other register stays, and the step ends normally (R222). -/
def State.raiseSoft (s : State) (e : SoftError) : State := { s.quiet with lastErr := e.word }

/-- TAKING A FAULT, `raise Fault(code)`: `FAULT` takes the code and the command word (0x00 for a host read); no other
register changes and the step has no output (R226; a next state, DESIGN CHOICE, log entry 5). There is no return: only reset clears `FAULT` (R229, R250). -/
def State.raiseFault (s : State) (k : FaultKind) (cmd : Byte) : State :=
  { s.quiet with fault := ⟨k.code, cmd⟩ }

/-- `CLASS_REG`'s value for a frequency reading (R26, R127). -/
def classificationOf (cfg : Config) (r : FreqReading) : Classification :=
  ⟨cfg.classify r.hz, cfg.bandName r.hz, cfg.legalityNote r.disp⟩

/-- `commit`: `FREQ_REG` and `CLASS_REG` together, each replaced whole, `valid` set (R28, R56, R127). -/
def State.commitFreq (s : State) (cfg : Config) (r : FreqReading) : State :=
  { s with freqReg := .holds r, classReg := .holds (classificationOf cfg r) }

/-- `STATUS_REG <- word`, `valid` set (R28, R157). -/
def State.commitStatus (s : State) (word : Byte) : State := { s with statusReg := .holds word }

/-- `LAST_ERR <- 0x0000` (R190). -/
def State.clearError (s : State) : State := { s with lastErr := 0x0000 }

/-- The block is faulted (R226). -/
def State.faulted (s : State) : Bool := decide (s.fault.code ≠ 0)

/-- The value of a field of a held register, none while the register is empty (R27). -/
def Held.field {α : Type} (h : Held α) (f : α → ReadValue) : Option ReadValue :=
  match h with
  | .empty => none
  | .holds v => some (f v)

/-- What a host read of `r` gives; none is a read of an empty register (R27, R39, R254). -/
def State.readValue (s : State) : ReadPort → Option ReadValue
  | .freqValid => some (.bit s.freqReg.valid)
  | .freqHz => s.freqReg.field fun v => .hz v.hz
  | .freqDisp => s.freqReg.field fun v => .disp v.disp
  | .freqMode => s.freqReg.field fun v => .byte v.mode
  | .statusValid => some (.bit s.statusReg.valid)
  | .statusWord => s.statusReg.field .byte
  | .classValid => some (.bit s.classReg.valid)
  | .classRegion => s.classReg.field fun v => .text v.region
  | .classBand => s.classReg.field fun v => .text v.band
  | .classNote => s.classReg.field fun v => .text v.note
  | .lastErr => some (.lastErr s.lastErr)
  | .fault => some (.fault s.fault)

/-- A host read (R39): the value, and no side effect; a read of an empty register raises `F_EMPTY_REG` with command 0x00
(R27, R224), unless the block is faulted already, when `FAULT` keeps its value (R31, R230; DEDUCED, log entry 8). -/
def State.hostRead (s : State) (r : ReadPort) : State :=
  match s.readValue r with
  | some v => { s with rdOut := some v }
  | none => if s.faulted then { s with rdOut := none } else { s.raiseFault .emptyReg 0x00 with rdOut := none }

/-- Reset applied by the platform: every piece of state at its value of R38; what the host does next is not state of the
block and stays (R250; DESIGN CHOICE, log entry 9). -/
def State.applyReset (s : State) : State := { State.reset with pending := s.pending }

/-- The host drives the ports for one step; the value of an earlier host read is no longer on the read port. -/
def State.drivePorts (s : State) (p : InPorts) : State := { s with ports := p, rdOut := none }

/-- The host's next action becomes the presentation of word `w`, the other input ports as they stand. -/
def State.presentNext (s : State) (w : Byte) : State :=
  { s with pending := .present { s.ports with cmd := w } :: s.pending }

/-- Run one step and then another, stopping at the first fault or refusal. -/
def andThen {α β φ ρ : Type} (o : Host.Outcome α φ ρ) (f : α → Host.Outcome β φ ρ) : Host.Outcome β φ ρ :=
  match o with
  | .next a => f a
  | .fault r => .fault r
  | .refused r => .refused r

end Sys2Proof.Machine
end

