-- ==== Sys2Proof/Machine/Encoder.lean ====
section
/-! DEFINITION. The command frame encoder: ENCF, ENCS, ENCM (40_frame_encoder.md). Each meaning takes the configuration as
an argument in its `…With` form and runs with the installed one. -/
namespace Sys2Proof.Machine

/-- Emit the frames of a ROM entry as one step (R102, R103, R104). -/
def emitEntry (cfg : Config) (id : RomId) (s : State) : Host.Outcome State Fault Refusal :=
  .next (s.quiet.emitFrames (romRead cfg id))

/-- ENCF (R102): emit the read-frequency frame. -/
def execEncf (s : State) : Host.Outcome State Fault Refusal := emitEntry Config.installed.cfg .rdFreq s

/-- ENCS (R103): emit the read-status frame. -/
def execEncs (s : State) : Host.Outcome State Fault Refusal := emitEntry Config.installed.cfg .rdStat s

/-- ENCM m (R104): emit the frames of macro `m`, a 500 ms gap between each two. -/
def execEncm (m : BitVec 2) (s : State) : Host.Outcome State Fault Refusal :=
  emitEntry Config.installed.cfg (.macroAt m) s

end Sys2Proof.Machine
end

