-- ==== Sys2Proof/Machine/FreqDecoder.lean ====
section
/-! DEFINITION. The frequency digit parser: DECF (41_frequency_decoder.md). -/
namespace Sys2Proof.Machine

/-- The ASCII digit of a digit value (R9 `char`). -/
def digitChar (d : Nibble) : Byte := BitVec.ofNat 8 (0x30 + d.toNat)

/-- The state of the digit walk: the leading-zero flag, the display so far, the accumulator (R122). -/
structure Walk where
  lz : Bool
  disp : Text
  acc : Nat
deriving DecidableEq, Repr

/-- One position of the digit walk (R122). -/
def walkDigit (w : Walk) (d : Nibble) : Walk :=
  if w.lz = true ∧ d = 0#4 then { w with disp := w.disp ++ [charByte ' '] }
  else { lz := false, disp := w.disp ++ [digitChar d], acc := w.acc * 10 + d.toNat }

/-- The loop of the digit walk over the 8 digits, left to right (R122). -/
def walkDigits (ds : List Nibble) : Walk := ds.foldl walkDigit ⟨true, [], 0⟩

/-- The display string: the walk's characters and the omitted last digit '0' (R122). -/
def walkDisplay (ds : List Nibble) : Text := (walkDigits ds).disp ++ [charByte '0']

/-- The walk writes one character per digit. -/
theorem walkDigits_length (ds : List Nibble) (w : Walk) :
    (ds.foldl walkDigit w).disp.length = w.disp.length + ds.length := by
  induction ds generalizing w with
  | nil => simp
  | cons d ds ih =>
    rw [List.foldl_cons, ih, List.length_cons]
    unfold walkDigit
    split <;> simp <;> omega

/-- The display has 9 positions for 8 digits (R122). -/
theorem walkDisplay_length (ds : Vector Nibble 8) : (walkDisplay ds.toList).toArray.size = 9 := by
  rw [List.size_toArray, walkDisplay, List.length_append, walkDigits, walkDigits_length, Vector.length_toList]
  rfl

/-- The 9-character display of 8 digits (R122). -/
def displayOf (ds : Vector Nibble 8) : Vector Byte 9 := ⟨(walkDisplay ds.toList).toArray, walkDisplay_length ds⟩

/-- `hz = acc * 10` (R123). -/
def hzOf (ds : Vector Nibble 8) : BitVec 32 := BitVec.ofNat 32 ((walkDigits ds.toList).acc * 10)

/-- The checks of DECF in order: byte count, lowest bad digit, mode (R120 parts 1 to 3, R124, R125, R126, R128). On
success, the reading of parts 2 to 4. -/
def parseFrequency (p : InPorts) : Except SoftError FreqReading :=
  if p.rxCount.toNat < 5 then .error ⟨.transportTimeout, .shortRead, 0, p.rxCount, 0⟩
  else if 5 < p.rxCount.toNat then .error ⟨.malformedResponse, .excessBytes, 0, p.rxCount, 0⟩
  else
    match firstBadDigit (responseDigits p.rx) with
    | some (pos, d) => .error ⟨.malformedResponse, .badDigit, 0, BitVec.ofNat 3 pos, d.setWidth 8⟩
    | none =>
      if p.rx[4] ∈ modeSet then .ok ⟨hzOf (responseDigits p.rx), displayOf (responseDigits p.rx), p.rx[4]⟩
      else .error ⟨.malformedResponse, .badMode, 0, 0, p.rx[4]⟩

/-- DECF under a configuration (R120): commit the reading and its classification, or record the error. -/
def decfWith (cfg : Config) (s : State) : Host.Outcome State Fault Refusal :=
  match parseFrequency s.ports with
  | .ok r => .next (s.quiet.commitFreq cfg r)
  | .error e => .next (s.raiseSoft e)

/-- DECF (R120). -/
def execDecf (s : State) : Host.Outcome State Fault Refusal := decfWith Config.installed.cfg s

end Sys2Proof.Machine
end

