-- ==== Sys2Proof/Decode.lean ====
section
/-! DEFINITION. The command-word decoder and encoder (30_encoding.md rules R77 to R80), the opcode table as rows of mask
and pattern (R78), and the reading of a table word the host asks for. -/
namespace Sys2Proof

/-- Why a command word is illegal: the two bullets of R80 (DESIGN CHOICE, log entry 17). -/
inductive Illegal where
  /-- `op` is 0x0 or 0x8 to 0xF. -/
  | unusedOp
  /-- A legal `op` whose reserved `arg` bits are not all 0. -/
  | reservedArg
deriving DecidableEq, Repr

/-- What a command word decodes to (R74, R78). -/
inductive Decoded where
  | legal (i : Instr)
  | illegal (why : Illegal)
deriving DecidableEq, Repr

/-- The `op` field, bits 7:4 (R77). -/
def opField (w : Byte) : Nibble := w.extractLsb' 4 4

/-- The `arg` field, bits 3:0 (R77). -/
def argField (w : Byte) : Nibble := w.extractLsb' 0 4

/-- `i`, if the reserved `arg` bits of its word are clear (R79, R80). -/
def ifClear {n : Nat} (reserved : BitVec n) (i : Instr) : Decoded :=
  if reserved = 0 then .legal i else .illegal .reservedArg

/-- The decoder: total on all 256 words (R78, R79, R80). -/
def decode (w : Byte) : Decoded :=
  match (opField w).toNat with
  | 1 => ifClear (argField w) .encf
  | 2 => ifClear (argField w) .encs
  | 3 => ifClear ((argField w).extractLsb' 2 2) (.encm ((argField w).extractLsb' 0 2))
  | 4 => ifClear (argField w) .decf
  | 5 => ifClear (argField w) .decs
  | 6 => ifClear ((argField w).extractLsb' 1 3) (.fmts ((argField w).extractLsb' 0 1))
  | 7 => ifClear (argField w) .clre
  | _ => .illegal .unusedOp

/-- The instruction of a legal word, none for an illegal one. -/
def Decoded.instr? : Decoded → Option Instr
  | .legal i => some i
  | .illegal _ => none

/-- The command word of an instruction (R78, R79): the operand in the low bits of `arg`, neither scaled nor extended. -/
def encode : Instr → Byte
  | .encf => 0x10
  | .encs => 0x20
  | .encm m => 0b001100#6 ++ m
  | .decf => 0x40
  | .decs => 0x50
  | .fmts s => 0b0110000#7 ++ s
  | .clre => 0x70

/-- The mask column of the opcode map (R78). -/
def rowMask : Instr → Byte
  | .encm _ => 0xFC
  | .fmts _ => 0xFE
  | .encf | .encs | .decf | .decs | .clre => 0xFF

/-- The pattern column of the opcode map: the fixed bits of the row (R78). -/
def rowPattern : Instr → Byte
  | .encf => 0x10
  | .encs => 0x20
  | .encm _ => 0x30
  | .decf => 0x40
  | .decs => 0x50
  | .fmts _ => 0x60
  | .clre => 0x70

/-- The instruction the decoder reads from a word of the opcode table. A command word is one byte, with nothing above it
(R81), so the bits of `w` below `nbits` are the word and a number that does not fit a byte is no command word (DESIGN
CHOICE, log entry 15). -/
def decodeTableWord (nbits w : Nat) : Option Instr :=
  if w % 2 ^ nbits < 256 then (decode (BitVec.ofNat 8 (w % 2 ^ nbits))).instr? else none

end Sys2Proof
end

