-- ==== Sys2Proof/Machine/SMeter.lean ====
section
/-! DEFINITION. The S-meter scale LUT and its rendering: FMTS (43_smeter_lut.md). -/
namespace Sys2Proof.Machine

/-- The ASCII digit of a number below 10 (R9 `char`). -/
def numberChar (n : Nat) : Byte := BitVec.ofNat 8 (0x30 + n)

/-- The label of a level below 19: the half-step (level − 1)/2 to one decimal, 0 for level 0 (R173). -/
def halfStepLabel (level : Nat) : Text :=
  [charByte 'S', numberChar ((level - 1) / 2), charByte '.',
    if (level - 1) % 2 = 1 then charByte '5' else charByte '0']

/-- The label of a level from 19: 5 × (level − 19) dB in two digits (R174). -/
def decibelLabel (level : Nat) : Text :=
  ascii ['S', '9', '+'] ++ [numberChar (5 * (level - 19) / 10), numberChar (5 * (level - 19) % 10)] ++ ascii ['d', 'B']

/-- The label of a level (R173, R174). -/
def scaleLabel (level : Nat) : Text := if level < 19 then halfStepLabel level else decibelLabel level

/-- `nMark` (R175). -/
def markCount (level : Nat) : Nat := if level < 19 then level else 19

/-- `nAlt` (R175). -/
def altCount (level : Nat) : Nat := if level < 19 then 0 else level - 19

/-- `nDot` (R175). -/
def dotCount (level : Nat) : Nat := 31 - level

/-- The record FMTS drives for a 5-bit level: `SCALE[level]` and its cells, all marks, then all alternate marks, then all
dots (R170, R172, R175). A level above 31 cannot be written (R177). -/
def scaleOf (level : BitVec 5) : SmOut where
  label := scaleLabel level.toNat
  cells := List.replicate (markCount level.toNat) .mark ++ List.replicate (altCount level.toNat) .alt ++
    List.replicate (dotCount level.toNat) .dot

/-- The glyph of a cell (R171). -/
def glyphOf (cfg : Config) : Symbol → Byte
  | .mark => glyphMark
  | .alt => cfg.glyphAlt
  | .dot => glyphDot

/-- The string form of the record: the label, then the glyphs of the cells, with nothing between (R171). -/
def renderSm (cfg : Config) (o : SmOut) : Text := o.label ++ o.cells.map (glyphOf cfg)

/-- The level FMTS renders: source 0 is the `lvl` port, source 1 is `STATUS_REG.word[4:0]`, which an empty register does
not have (R79, R170). -/
def fmtsLevel (src : BitVec 1) (s : State) : Option (BitVec 5) :=
  if src = 0 then some s.ports.lvl
  else
    match s.statusReg with
    | .empty => none
    | .holds word => some (statusLevel word)

/-- FMTS s (R170): drive the rendering of the level; with source 1 on an empty `STATUS_REG`, take `F_EMPTY_REG`, whose
command word is this instruction's, 0x61 (R224). -/
def execFmts (src : BitVec 1) (s : State) : Host.Outcome State Fault Refusal :=
  match fmtsLevel src s with
  | some level => .next (s.quiet.driveSm (scaleOf level))
  | none => .next (s.raiseFault .emptyReg (encode (.fmts src)))

end Sys2Proof.Machine
end

