-- ==== Sys2Proof/Machine/SessionControl.lean ====
section
/-! DEFINITION. Session control: CLRE (44_session_control.md rule R190). -/
namespace Sys2Proof.Machine

/-- CLRE (R190): `LAST_ERR` becomes 0x0000 and no other register changes. -/
def execClre (s : State) : Host.Outcome State Fault Refusal := .next s.quiet.clearError

end Sys2Proof.Machine
end

