-- ==== Sys2Proof/Machine/StatusDecoder.lean ====
section
/-! DEFINITION. The status bitfield decoder: DECS (42_status_decoder.md). -/
namespace Sys2Proof.Machine

/-- The status word of a status byte: bits 7 and 6 copied, bit 5 inverted, the raw level extended, bit 4 ignored
(R150, R151, R153, R154). -/
def decodeStatus (cfg : Config) (b : Byte) : Byte :=
  packStatus (b.extractLsb' 7 1) (b.extractLsb' 6 1) (~~~(b.extractLsb' 5 1)) (extendLevel cfg (rawLevel b))

/-- DECS under a configuration (R150): the byte count is checked and no byte value is malformed (R152, R155); one attempt,
with no second reading of the byte (R156). -/
def decsWith (cfg : Config) (s : State) : Host.Outcome State Fault Refusal :=
  if s.ports.rxCount.toNat < 1 then
    .next (s.raiseSoft ⟨.transportTimeout, .shortRead, 1, s.ports.rxCount, 0⟩)
  else if 1 < s.ports.rxCount.toNat then
    .next (s.raiseSoft ⟨.malformedResponse, .excessBytes, 1, s.ports.rxCount, 0⟩)
  else .next (s.quiet.commitStatus (decodeStatus cfg s.ports.rx[0]))

/-- DECS (R150). -/
def execDecs (s : State) : Host.Outcome State Fault Refusal := decsWith Config.installed.cfg s

end Sys2Proof.Machine
end

