-- ==== Sys2Proof/Machine/Dispatch.lean ====
section
/-! DEFINITION. The one place where instructions meet their meanings: the legal arms of 30_encoding.md rule R74. -/
namespace Sys2Proof.Machine

def exec (i : Instr) (s : State) : Host.Outcome State Fault Refusal :=
  match i with
  | .encf => Sys2Proof.Machine.execEncf s
  | .encs => Sys2Proof.Machine.execEncs s
  | .encm m => Sys2Proof.Machine.execEncm m s
  | .decf => Sys2Proof.Machine.execDecf s
  | .decs => Sys2Proof.Machine.execDecs s
  | .fmts src => Sys2Proof.Machine.execFmts src s
  | .clre => Sys2Proof.Machine.execClre s

end Sys2Proof.Machine
end

