-- ==== Sys2Proof/Machine/Fetch.lean ====
section
/-! DEFINITION. Taking a command word off the command port (30_encoding.md rule R74). -/
namespace Sys2Proof.Machine

/-- One step of R74: a faulted block has none (R226); a legal word runs its instruction; an illegal word takes
`F_ILLEGAL_CMD` with itself as the command (R80). -/
def runWord (p : InPorts) (s : State) : Host.Outcome State Fault Refusal :=
  if s.faulted then .fault (.blockFaulted s.fault.code s.fault.cmd)
  else
    match decode p.cmd with
    | .legal i => exec i (s.drivePorts p)
    | .illegal _ => .next ((s.drivePorts p).raiseFault .illegalCmd p.cmd)

/-- The host's next action, `pending` being what is left after it: a command word is a step of the block (R74), a read
happens between steps (R39), and reset is the platform's (R250). -/
def perform (a : HostAction) (s : State) : Host.Outcome State Fault Refusal :=
  match a with
  | .present p => runWord p s
  | .read r => .next (s.hostRead r)
  | .reset => .next s.applyReset

/-- The host's pending actions in order; with none pending the block is idle and holds its state (R240, R251). -/
def serveHost (s : State) : Host.Outcome State Fault Refusal :=
  match s.pending with
  | [] => .next s
  | a :: rest => perform a { s with pending := rest }

/-- The bits of an opcode-table word, presented as the host's next command word (R81: one byte). -/
def presentTableWord (nbits w : Nat) (s : State) : State := s.presentNext (BitVec.ofNat 8 (w % 2 ^ nbits))

end Sys2Proof.Machine
end

