-- ==== Sys2Proof/Machine/Step.lean ====
section
/-! DEFINITION. One step of the machine, and the placing of a word where the next step finds it. -/
namespace Sys2Proof.Machine

/-- One step: the host's next action (30_encoding.md rule R74, 10_state.md rules R23, R39). -/
def step (s : State) : Host.Outcome State Fault Refusal := serveHost s

/-- `s` with the word as the host's next presentation, the other input ports as they stand (DESIGN CHOICE, log entry 2). -/
def State.withFetchWord (s : State) (nbits w : Nat) : State := presentTableWord nbits w s

end Sys2Proof.Machine
end

