-- ==== Sys2Proof/Machine/Transport.lean ====
section
/-! DEFINITION. The transport, the platform device of 60_exceptions.md rule R236, by its interface. It is no state of the
block (10_state.md rule R34) and no meaning reads it; the host sequences of Machine/Session.lean use it. -/
namespace Sys2Proof.Machine

/-- The transport as the host sees it (R236), with the bytes that have yet to arrive given as data (DESIGN CHOICE, log
entry 11). -/
structure Transport where
  /-- Milliseconds since the session began; only the host's deadlines read it (R262). -/
  clock : Nat
  /-- The input buffer: bytes received and not yet read, oldest first. R236 leaves its size open; here it has no bound, so it
  neither overflows nor drops a byte (DESIGN CHOICE, unsafe, log entry 22). -/
  inBuf : List Byte
  /-- Bytes still to come, each with the time it arrives, in the order of arrival. -/
  coming : List (Nat × Byte)
  /-- Every write, with the time it was made, oldest first. -/
  written : List (Nat × List Byte)
deriving DecidableEq, Repr

/-- The bytes whose time has come enter the input buffer, every one of them (log entry 22). -/
def Transport.arrive (t : Transport) : Transport :=
  { t with inBuf := t.inBuf ++ (t.coming.takeWhile fun c => c.1 ≤ t.clock).map Prod.snd,
           coming := t.coming.dropWhile fun c => c.1 ≤ t.clock }

/-- Time passes. -/
def Transport.sleep (t : Transport) (ms : Nat) : Transport := { t with clock := t.clock + ms }.arrive

/-- `bytesAvailable()` (R236). -/
def Transport.bytesAvailable (t : Transport) : Nat := t.inBuf.length

/-- `resetInputBuffer()`: the bytes not yet read are discarded (R236, R257). -/
def Transport.resetInputBuffer (t : Transport) : Transport := { t with inBuf := [] }

/-- `resetOutputBuffer()`: every write has gone out whole (R199), so there is nothing to discard (DEDUCED, log entry 12). -/
def Transport.resetOutputBuffer (t : Transport) : Transport := t

/-- `write(bytes) -> byteCount` (R236): the byte count, and the transport after it. The bytes go out whole, so the count is
theirs (R199, R237; log entries 12, 14), and in no time (log entry 20). -/
def Transport.write (t : Transport) (bytes : List Byte) : Nat × Transport :=
  (bytes.length, { t with written := t.written ++ [(t.clock, bytes)] })

/-- Wait, a millisecond at a time and `fuel` of them at most, until `n` bytes are in the input buffer. -/
def Transport.await (n : Nat) : Nat → Transport → Transport
  | 0, t => t
  | fuel + 1, t => if n ≤ t.bytesAvailable then t else Transport.await n fuel (t.sleep 1)

/-- `read(n)`: blocks for the base read timeout at most, then removes and returns up to `n` bytes from the front of the
input buffer, in arrival order (R236, R265). -/
def Transport.read (n : Nat) (t : Transport) : List Byte × Transport :=
  let w := t.await n readTimeoutMs
  (w.inBuf.take n, { w with inBuf := w.inBuf.drop n })

/-- The poll for data of a frequency query: while nothing is available, sleep one poll interval, `polls` times at most
(R192, R264). -/
def Transport.pollForData : Nat → Transport → Transport
  | 0, t => t
  | polls + 1, t => if t.bytesAvailable = 0 then Transport.pollForData polls (t.sleep freqPollMs) else t

end Sys2Proof.Machine
end

