-- ==== Sys2Proof/Machine/Session.lean ====
section
/-! DEFINITION. The host sequences QUERYF, QUERYS and RUNMACRO (30_encoding.md rule R86, 44_session_control.md rules R192 to
R194), the polling loop's tick and the loop itself (rule R197), and the start-up (70_reset_and_hazards.md rule R253). They are not block
operations: they say which command words the host presents, and with which port values; `step` gives each its meaning. -/
namespace Sys2Proof.Machine

/-- The block and the transport, both driven by one host (R191, R235). -/
structure Session where
  block : State
  link : Transport
deriving DecidableEq, Repr

/-- The source's session operations as pseudo-instructions (R86). -/
inductive Pseudo where
  | queryF
  | queryS
  | runMacro (name : Text)
deriving DecidableEq, Repr

/-- The host presents the command word of `i`, the other ports as they stand, and the block takes the step. -/
def issue (i : Instr) (s : State) : Host.Outcome State Fault Refusal := step (s.presentNext (encode i))

/-- The host puts received bytes on `rx`, in arrival order, and their count on `rx_count`; the bytes of `rx` past the count
stay as they were, for nothing reads them (R75, R237). -/
def State.receive (s : State) (bytes : List Byte) : State :=
  { s with ports := { s.ports with
      rx := Vector.ofFn fun i : Fin 5 => bytes.getD i (s.ports.rx.get i),
      rxCount := BitVec.ofNat 3 bytes.length } }

/-- The host carries out a step's `tx` output in order: it writes each frame whole, and at a gap it waits at least the gap's
milliseconds (R194, R237). How much longer it waits is the host's: `extra` gives it for each gap in turn, and a gap past
the list's end gets none. No write fails, so the host has no use for the byte count (R199; log entry 12). -/
def carryOut (extra : List Nat) : List TxEvent → Transport → Transport
  | [], t => t
  | .emit f :: es, t => carryOut extra es (t.write f.toList).2
  | .gap ms :: es, t => carryOut extra.tail es (t.sleep (ms + extra.headD 0))

/-- The bytes QUERYF presents to DECF: nothing if the deadline passed with no data, and else what `read(5)` gives (R192,
decision D27). -/
def frequencyResponse (t : Transport) : List Byte × Transport :=
  let w := t.pollForData (freqTimeoutMs / freqPollMs)
  if w.bytesAvailable = 0 then ([], w) else w.read 5

/-- QUERYF (R192): clear both buffers, ENCF, write, wait for data, read 5 bytes, DECF. -/
def Session.queryF (x : Session) : Host.Outcome Session Fault Refusal :=
  andThen (issue .encf x.block) fun b =>
    let rd := frequencyResponse (carryOut [] b.txOut x.link.resetInputBuffer.resetOutputBuffer)
    andThen (issue .decf (b.receive rd.1)) fun b' => .next ⟨b', rd.2⟩

/-- QUERYS (R193): ENCS, write, read 1 byte, DECS; the buffers are not cleared (R258). -/
def Session.queryS (x : Session) : Host.Outcome Session Fault Refusal :=
  andThen (issue .encs x.block) fun b =>
    let rd := (carryOut [] b.txOut x.link).read 1
    andThen (issue .decs (b.receive rd.1)) fun b' => .next ⟨b', rd.2⟩

/-- The index of a macro name (R194, the host's lookup). -/
def macroIndex (cfg : Config) (name : Text) : Option (BitVec 2) :=
  (cfg.macroNames.toList.idxOf? name).map (BitVec.ofNat 2)

/-- RUNMACRO name (R194): ENCM m, then the frames written in order with the recorded gaps, each lengthened as `extra` says;
nothing is read. An unknown name is a host error with no block step: here a refusal (DESIGN CHOICE, log entry 18). -/
def Session.runMacro (cfg : Config) (extra : List Nat) (name : Text) (x : Session) : Host.Outcome Session Fault Refusal :=
  match macroIndex cfg name with
  | none => .refused .unknownMacroName
  | some m => andThen (issue (.encm m) x.block) fun b => .next ⟨b, carryOut extra b.txOut x.link⟩

/-- A pseudo-instruction (R86). -/
def Session.runPseudo (cfg : Config) (extra : List Nat) (p : Pseudo) (x : Session) : Host.Outcome Session Fault Refusal :=
  match p with
  | .queryF => x.queryF
  | .queryS => x.queryS
  | .runMacro name => x.runMacro cfg extra name

/-- The host reads a port between two steps (R39), by a step of the machine. -/
def readOut (r : ReadPort) (b : State) : Host.Outcome (Option ReadValue × State) Fault Refusal :=
  andThen (step { b with pending := .read r :: b.pending }) fun b' => .next (b'.rdOut, b')

/-- The ports the host has read, in order, each with what it gave. -/
abbrev Readings := List (ReadPort × Option ReadValue)

/-- The host reads several ports, one after the other. -/
def readAll : List ReadPort → State → Host.Outcome (Readings × State) Fault Refusal
  | [], b => .next ([], b)
  | r :: rs, b =>
    andThen (readOut r b) fun x =>
      andThen (readAll rs x.2) fun y => .next ((r, x.1) :: y.1, y.2)

/-- The host reads a held register: its `valid` bit first, and its fields only if that is 1, so that no read faults (R254
allows this; DESIGN CHOICE, log entry 23). -/
def readHeld (valid : ReadPort) (fields : List ReadPort) (b : State) :
    Host.Outcome (Readings × State) Fault Refusal :=
  andThen (readOut valid b) fun x =>
    if x.1 = some (.bit true) then andThen (readAll fields x.2) fun y => .next ((valid, x.1) :: y.1, y.2)
    else .next ([(valid, x.1)], x.2)

/-- The host reads `FREQ_REG`, `STATUS_REG`, `CLASS_REG` and `FAULT` (R39, R197). -/
def readRegisters (b : State) : Host.Outcome (Readings × State) Fault Refusal :=
  andThen (readHeld .freqValid [.freqHz, .freqDisp, .freqMode] b) fun f =>
    andThen (readHeld .statusValid [.statusWord] f.2) fun s =>
      andThen (readHeld .classValid [.classRegion, .classBand, .classNote] s.2) fun c =>
        andThen (readAll [.fault] c.2) fun e => .next (f.1 ++ s.1 ++ c.1 ++ e.1, e.2)

/-- What the host takes from one tick of the polling loop: what it renders, and the error it surfaces (R197). -/
structure Report where
  readings : Readings
  /-- What `LAST_ERR` gave; 0x0000 is no error. -/
  error : Option ReadValue
deriving DecidableEq, Repr

/-- The host reads `LAST_ERR`, and clears it with CLRE if it holds an error (R197, R229). -/
def takeError (b : State) : Host.Outcome (Option ReadValue × State) Fault Refusal :=
  andThen (readOut .lastErr b) fun e =>
    if e.1 = some (.lastErr 0x0000) then .next e
    else andThen (issue .clre e.2) fun b' => .next (e.1, b')

/-- One tick of the polling loop (R197): QUERYF, QUERYS, then the host reads the registers, and surfaces and clears any
error. Rendering what it read is out of scope (R200). -/
def Session.tick (x : Session) : Host.Outcome (Report × Session) Fault Refusal :=
  andThen x.queryF fun y =>
    andThen y.queryS fun z =>
      andThen (readRegisters z.block) fun rd =>
        andThen (takeError rd.2) fun e => .next (⟨rd.1, e.1⟩, { z with block := e.2 })

/-- The host waits until the clock shows `time`, not at all if it does already. -/
def Session.waitUntil (time : Nat) (x : Session) : Session :=
  { x with link := x.link.sleep (time - x.link.clock) }

/-- The polling loop (R197): a number of ticks at a fixed cadence, the host's parameter (93_implementation_defined.md), and
the report of each. A tick begins `cadence` milliseconds after the one before it began, or at once where that one took
longer (DESIGN CHOICE, log entry 23). The host stops by issuing no further query (R198). -/
def Session.pollingLoop (cadence : Nat) : Nat → Session → Host.Outcome (List Report × Session) Fault Refusal
  | 0, x => .next ([], x)
  | ticks + 1, x =>
    andThen x.tick fun y =>
      andThen (Session.pollingLoop cadence ticks (y.2.waitUntil (x.link.clock + cadence))) fun z =>
        .next (y.1 :: z.1, z.2)

/-- The start-up macros, in the order the host chooses, each with the extra waits of its gaps (R253). -/
def Session.runMacros (cfg : Config) : List (Text × List Nat) → Session → Host.Outcome Session Fault Refusal
  | [], x => .next x
  | (name, extra) :: names, x => andThen (x.runMacro cfg extra name) (Session.runMacros cfg names)

/-- Start-up: reset, then any macros in any order (R253, decision D28). The polling loop comes after it. -/
def Session.boot (cfg : Config) (names : List (Text × List Nat)) (x : Session) : Host.Outcome Session Fault Refusal :=
  Session.runMacros cfg names { x with block := x.block.applyReset }

end Sys2Proof.Machine
end

