-- ==== Sys2Proof/Machine/Assembler.lean ====
section
/-! DEFINITION. The assembler notation of the command words (30_encoding.md rule R85): a line is a mnemonic in capitals and,
for ENCM and FMTS, one operand. -/
namespace Sys2Proof.Machine

/-- An operand: a decimal number, or a macro name (R85). -/
inductive AsmOperand where
  | number (n : Nat)
  | name (t : Text)
deriving DecidableEq, Repr

/-- One line of assembler text (R85; DESIGN CHOICE, log entry 16). -/
structure AsmLine where
  mnemonic : Text
  operand : Option AsmOperand
deriving DecidableEq, Repr

/-- The mnemonic of an instruction (R78, R85). -/
def mnemonicOf : Instr → Text
  | .encf => ascii ['E', 'N', 'C', 'F']
  | .encs => ascii ['E', 'N', 'C', 'S']
  | .encm _ => ascii ['E', 'N', 'C', 'M']
  | .decf => ascii ['D', 'E', 'C', 'F']
  | .decs => ascii ['D', 'E', 'C', 'S']
  | .fmts _ => ascii ['F', 'M', 'T', 'S']
  | .clre => ascii ['C', 'L', 'R', 'E']

/-- The line of an instruction, its operand as a number (R85). -/
def disassemble (i : Instr) : AsmLine where
  mnemonic := mnemonicOf i
  operand :=
    match i with
    | .encm m => some (.number m.toNat)
    | .fmts s => some (.number s.toNat)
    | .encf | .encs | .decf | .decs | .clre => none

/-- The macro index an operand of ENCM names: 0..3, or a macro's name (R85). -/
def asmMacro (cfg : Config) : AsmOperand → Option (BitVec 2)
  | .number n => if n < 4 then some (BitVec.ofNat 2 n) else none
  | .name t => macroIndex cfg t

/-- The source an operand of FMTS names: 0 or 1 (R85). -/
def asmSource : AsmOperand → Option (BitVec 1)
  | .number n => if n < 2 then some (BitVec.ofNat 1 n) else none
  | .name _ => none

/-- The instruction of a line; none for a line that R85 does not allow. -/
def assemble (cfg : Config) (line : AsmLine) : Option Instr :=
  match line.operand with
  | none => [Instr.encf, .encs, .decf, .decs, .clre].find? fun i => mnemonicOf i = line.mnemonic
  | some o =>
    if line.mnemonic = mnemonicOf (.encm 0) then (asmMacro cfg o).map Instr.encm
    else if line.mnemonic = mnemonicOf (.fmts 0) then (asmSource o).map Instr.fmts
    else none

/-- The text of an operand: a number in decimal, a name as it is (R85). -/
def AsmOperand.text : AsmOperand → Text
  | .number n => ascii (Nat.toDigits 10 n)
  | .name t => t

/-- The text of a line: the mnemonic, and a space and the operand where there is one (R85). -/
def AsmLine.text (line : AsmLine) : Text :=
  match line.operand with
  | none => line.mnemonic
  | some o => line.mnemonic ++ [charByte ' '] ++ o.text

end Sys2Proof.Machine
end

