-- ==== Sys2Proof/Safety.lean ====
section
/-! DEFINITION. The terms the claims are stated in: what an accepted response is, the spec's closed forms for what the
decoders compute, and the invariant of the machine (10_state.md rules R24 to R36). No meaning uses a definition of this
file. -/
namespace Sys2Proof.Machine

/-- R80: the words it calls illegal, read off its two bullets: an unused `op`, or a reserved `arg` bit that is set. -/
abbrev IllegalWord (w : Byte) : Prop :=
  w.toNat / 16 = 0 ∨ 8 ≤ w.toNat / 16 ∨
  ((w.toNat / 16 = 1 ∨ w.toNat / 16 = 2 ∨ w.toNat / 16 = 4 ∨ w.toNat / 16 = 5 ∨ w.toNat / 16 = 7) ∧ w.toNat % 16 ≠ 0) ∨
  (w.toNat / 16 = 3 ∧ 4 ≤ w.toNat % 16) ∨ (w.toNat / 16 = 6 ∧ 2 ≤ w.toNat % 16)

/-- A digit is legal: its value is 0 to 9 (R71, R82). -/
abbrev GoodDigit (d : Nibble) : Prop := d.toNat ≤ 9

/-- A frequency response DECF accepts: 5 bytes, every nibble of `rx[0..3]` at most 9, and a mode of `MODE_SET` (R83). -/
abbrev AcceptedFrequency (p : InPorts) : Prop :=
  p.rxCount = 5 ∧ (∀ d ∈ (responseDigits p.rx).toList, GoodDigit d) ∧ p.rx[4] ∈ modeSet

/-- The decimal value of a string of digits, most significant first (R123). -/
def decimalValue (ds : List Nibble) : Nat := ds.foldl (fun a d => 10 * a + d.toNat) 0

/-- The number `k` of leading zero digits (R129). -/
def leadingZeros (ds : List Nibble) : Nat := (ds.takeWhile fun d => d = 0#4).length

/-- The leading-space law's display: `k` spaces, the characters of the other digits, '0' (R129). -/
def spacedDisplay (ds : List Nibble) : Text :=
  List.replicate (leadingZeros ds) (charByte ' ') ++ (ds.drop (leadingZeros ds)).map digitChar ++ [charByte '0']

/-- The zero-padded 8-digit decimal of `q`, most significant digit first (R35, R130). -/
def decimalDigits (q : Nat) : List Nibble :=
  [q / 10000000 % 10, q / 1000000 % 10, q / 100000 % 10, q / 10000 % 10,
   q / 1000 % 10, q / 100 % 10, q / 10 % 10, q % 10].map (BitVec.ofNat 4)

/-- The display R35 gives for a frequency: the leading-space law over the digits of `hz / 10`. -/
def displayFromHz (hz : Nat) : Text := spacedDisplay (decimalDigits (hz / 10))

/-- `z·16 + z'` (R130). -/
def digitPair (hi lo : Nibble) : Byte := hi ++ lo

/-- `Synth(hz, c)`, the test generator of the round trip (R130). -/
def synthResponse (hz : Nat) (c : Byte) : Vector Byte 5 :=
  let z := decimalDigits (hz / 10)
  #v[digitPair (z.getD 0 0) (z.getD 1 0), digitPair (z.getD 2 0) (z.getD 3 0),
     digitPair (z.getD 4 0) (z.getD 5 0), digitPair (z.getD 6 0) (z.getD 7 0), c]

/-- The event is an `Emit`, and no `Gap` (R100, R101). -/
def TxEvent.isEmit : TxEvent → Bool
  | .emit _ => true
  | .gap _ => false

/-- The events of a sequence of frames: each `Emit`, with a `Gap(500)` between two consecutive ones (R104, R105). -/
def macroEvents (fs : List Frame) : List TxEvent := (fs.map TxEvent.emit).intersperse (.gap 500)

/-- R172, levels 0 to 9: label, nMark, nAlt, nDot. -/
def scaleTableLow : List (Text × Nat × Nat × Nat) :=
  [(ascii ['S', '0', '.', '0'], 0, 0, 31),
   (ascii ['S', '0', '.', '0'], 1, 0, 30),
   (ascii ['S', '0', '.', '5'], 2, 0, 29),
   (ascii ['S', '1', '.', '0'], 3, 0, 28),
   (ascii ['S', '1', '.', '5'], 4, 0, 27),
   (ascii ['S', '2', '.', '0'], 5, 0, 26),
   (ascii ['S', '2', '.', '5'], 6, 0, 25),
   (ascii ['S', '3', '.', '0'], 7, 0, 24),
   (ascii ['S', '3', '.', '5'], 8, 0, 23),
   (ascii ['S', '4', '.', '0'], 9, 0, 22)]

/-- R172, levels 10 to 18. -/
def scaleTableMid : List (Text × Nat × Nat × Nat) :=
  [(ascii ['S', '4', '.', '5'], 10, 0, 21),
   (ascii ['S', '5', '.', '0'], 11, 0, 20),
   (ascii ['S', '5', '.', '5'], 12, 0, 19),
   (ascii ['S', '6', '.', '0'], 13, 0, 18),
   (ascii ['S', '6', '.', '5'], 14, 0, 17),
   (ascii ['S', '7', '.', '0'], 15, 0, 16),
   (ascii ['S', '7', '.', '5'], 16, 0, 15),
   (ascii ['S', '8', '.', '0'], 17, 0, 14),
   (ascii ['S', '8', '.', '5'], 18, 0, 13)]

/-- R172, levels 19 to 31. -/
def scaleTableHigh : List (Text × Nat × Nat × Nat) :=
  [(ascii ['S', '9', '+', '0', '0', 'd', 'B'], 19, 0, 12),
   (ascii ['S', '9', '+', '0', '5', 'd', 'B'], 19, 1, 11),
   (ascii ['S', '9', '+', '1', '0', 'd', 'B'], 19, 2, 10),
   (ascii ['S', '9', '+', '1', '5', 'd', 'B'], 19, 3, 9),
   (ascii ['S', '9', '+', '2', '0', 'd', 'B'], 19, 4, 8),
   (ascii ['S', '9', '+', '2', '5', 'd', 'B'], 19, 5, 7),
   (ascii ['S', '9', '+', '3', '0', 'd', 'B'], 19, 6, 6),
   (ascii ['S', '9', '+', '3', '5', 'd', 'B'], 19, 7, 5),
   (ascii ['S', '9', '+', '4', '0', 'd', 'B'], 19, 8, 4),
   (ascii ['S', '9', '+', '4', '5', 'd', 'B'], 19, 9, 3),
   (ascii ['S', '9', '+', '5', '0', 'd', 'B'], 19, 10, 2),
   (ascii ['S', '9', '+', '5', '5', 'd', 'B'], 19, 11, 1),
   (ascii ['S', '9', '+', '6', '0', 'd', 'B'], 19, 12, 0)]

/-- The S-meter scale as R172 tabulates it, one row per level from 0. -/
def scaleTable : List (Text × Nat × Nat × Nat) := scaleTableLow ++ scaleTableMid ++ scaleTableHigh

/-- The record of a row of R172: its label, and its cells in R175's order. -/
def tableRecord (level : BitVec 5) : SmOut :=
  match scaleTable.getD level.toNat ([], 0, 0, 0) with
  | (label, nMark, nAlt, nDot) =>
    ⟨label, List.replicate nMark .mark ++ List.replicate nAlt .alt ++ List.replicate nDot .dot⟩

/-- R35, R24: what `FREQ_REG` holds is a multiple of 10 Hz in range, its display is the one R35 gives for it, and its mode
is in `MODE_SET`. -/
def FreqReading.Legal (r : FreqReading) : Prop :=
  r.hz.toNat ≤ 999999990 ∧ r.hz.toNat % 10 = 0 ∧ r.disp.toList = displayFromHz r.hz.toNat ∧ r.mode ∈ modeSet

/-- `CLASS_REG` is empty exactly while `FREQ_REG` is, and else classifies what it holds (R26, R56). -/
def classOfFreq : Held FreqReading → Held Classification
  | .empty => .empty
  | .holds r => .holds (classificationOf Config.installed.cfg r)

/-- The values of `LAST_ERR` of R221, and 0x0000: the rows of its table in order. -/
def LegalLastErr (w : BitVec 16) : Prop :=
  w = 0x0000 ∨
  (∃ n : Nat, n < 5 ∧ w.toNat = 0x4000 + 0x100 * n) ∨
  w = 0x4800 ∨
  (∃ n : Nat, 6 ≤ n ∧ n ≤ 7 ∧ w.toNat = 0x9000 + 0x100 * n) ∨
  (∃ n : Nat, 2 ≤ n ∧ n ≤ 7 ∧ w.toNat = 0x9800 + 0x100 * n) ∨
  (∃ pos d : Nat, pos ≤ 7 ∧ 0xA ≤ d ∧ d ≤ 0xF ∧ w.toNat = 0xA000 + 0x100 * pos + d) ∨
  (∃ m : Byte, m ∉ modeSet ∧ w.toNat = 0xB000 + m.toNat)

/-- The values of `FAULT` (R31, R224): none; an illegal word; FMTS 1 or a host read on an empty register. -/
def LegalFault (f : FaultReg) : Prop :=
  f = ⟨0, 0x00⟩ ∨ (f.code = 1 ∧ (decode f.cmd).instr? = none) ∨ f = ⟨2, 0x61⟩ ∨ f = ⟨2, 0x00⟩

/-- The invariant of the machine: every register holds a value its rule allows, and the output ports show what the last
step added. -/
structure State.Inv (s : State) : Prop where
  /-- R24, R35. -/
  freq : ∀ r, s.freqReg = .holds r → r.Legal
  /-- R36: the level is an entry of `SMETER_EXT`. -/
  status : ∀ w, s.statusReg = .holds w → ∃ raw : Nibble, statusLevel w = extendLevel Config.installed.cfg raw
  /-- R26, R56. -/
  cls : s.classReg = classOfFreq s.freqReg
  /-- R29, R221. -/
  err : LegalLastErr s.lastErr
  /-- R31, R224. -/
  flt : LegalFault s.fault
  /-- R34, R100: this step's `tx` events are the end of `TXH`. -/
  tx : s.txOut <:+ s.txh
  /-- R171, R172: `sm_out` carries an entry of the scale. -/
  sm : ∀ o, s.smOut = some o → ∃ level, o = scaleOf level

/-- The held registers: what R57 calls idempotent. -/
def State.held (s : State) : Held FreqReading × Held Byte × Held Classification :=
  (s.freqReg, s.statusReg, s.classReg)

/-- The host's next action is not a reset. -/
abbrev State.NotReset (s : State) : Prop := s.pending.head? ≠ some .reset

end Sys2Proof.Machine
end

