-- ==== Sys2Proof/Certificates/Slice0/Obligations.lean ====
section
/-! DEFINITION. The statements of this row. -/

open Sys2Proof Sys2Proof.Machine

/-! Encoding -/

/-- R78 to R80: a word decodes to an instruction exactly when it is the word that instruction encodes to. So decoding an
encoding gives the instruction back with its operand, and no second word gives the same instruction. -/
def Obligations.DecodeInvertsEncodeExactly : Prop :=
  ∀ (w : Byte) (i : Instr), decode w = .legal i ↔ encode i = w

/-- R78: the rows of the opcode map, and nothing else, are legal. -/
def Obligations.OpcodeMapIsTheCompleteCommandSet : Prop :=
  decode 0x10 = .legal .encf ∧ decode 0x20 = .legal .encs ∧
  (∀ m : BitVec 2, decode (0x30 + m.setWidth 8) = .legal (.encm m)) ∧
  decode 0x40 = .legal .decf ∧ decode 0x50 = .legal .decs ∧
  (∀ s : BitVec 1, decode (0x60 + s.setWidth 8) = .legal (.fmts s)) ∧
  decode 0x70 = .legal .clre ∧
  ∀ w : Byte, w ∉ ([0x10, 0x20, 0x30, 0x31, 0x32, 0x33, 0x40, 0x50, 0x60, 0x61, 0x70] : List Byte) →
    (decode w).instr? = none

/-- R80: presenting an illegal word sets `FAULT` to code 1 and the word, changes no other register and emits nothing;
every other word is legal; 245 words are illegal. Three parts of the state it answers are the model's choices: that the fault's
entry is a next state (log entry 5; R226 says that the step does not complete), that the read port is empty (log entry 8),
and that the action is taken off the host's list (log entry 1). -/
def Obligations.IllegalWordFaultsAndChangesNothing : Prop :=
  (∀ (s : State) (p : InPorts) (rest : List HostAction), s.pending = .present p :: rest → s.fault.code = 0 →
    IllegalWord p.cmd →
    step s = .next { s with pending := rest, ports := p, rdOut := none, txOut := [], smOut := none,
                            fault := ⟨1, p.cmd⟩ }) ∧
  (∀ w : Byte, ¬ IllegalWord w → ∃ i, decode w = .legal i) ∧
  ((List.range 256).countP fun n => (decode (BitVec.ofNat 8 n)).instr?.isNone) = 245

/-- R85: assembling the line of an instruction gives the instruction, and the two bound macro names are operands of ENCM
for macros 0 and 1. -/
def Obligations.AssemblerReadsWhatItWrites : Prop :=
  (∀ (cfg : Config) (i : Instr), assemble cfg (disassemble i) = some i) ∧
  assemble Config.installed.cfg ⟨ascii ['E', 'N', 'C', 'M'], some (.name (ascii ['g', 'b', '3', 't', 's']))⟩ =
    some (.encm 0) ∧
  assemble Config.installed.cfg ⟨ascii ['E', 'N', 'C', 'M'], some (.name (ascii ['g', 'b', '3', 'n', 't']))⟩ =
    some (.encm 1)

/-! The step -/

/-- R74: when the host's next action presents a legal word to a block that is not faulted, the step is the instruction's
meaning, run in the state with that action taken off the host's list, the ports driven and no read value on the read
port. -/
def Obligations.StepRunsTheDecodedInstruction : Prop :=
  ∀ (s : State) (p : InPorts) (rest : List HostAction) (i : Instr), s.pending = .present p :: rest →
    s.fault.code = 0 → decode p.cmd = .legal i →
    step s = exec i { s with pending := rest, ports := p, rdOut := none }

/-- R74, R226: a word presented to a faulted block gets no step. That the stop is the fault `blockFaulted`, and no state,
is the model's choice (log entry 5). -/
def Obligations.FaultedBlockHasNoStep : Prop :=
  ∀ (s : State) (p : InPorts) (rest : List HostAction), s.pending = .present p :: rest → s.fault.code ≠ 0 →
    step s = .fault (.blockFaulted s.fault.code s.fault.cmd)

/-- R31, R226, R230: while the block is faulted, whatever step it answers short of a reset leaves `FAULT` and every other
register and the transmit history as they were. -/
def Obligations.FaultKeepsItsValueUntilReset : Prop :=
  ∀ s t : State, s.fault.code ≠ 0 → s.NotReset → step s = .next t →
    t.fault = s.fault ∧ t.freqReg = s.freqReg ∧ t.statusReg = s.statusReg ∧ t.classReg = s.classReg ∧
    t.lastErr = s.lastErr ∧ t.txh = s.txh

/-- R240, R251: with no action of the host pending the block holds its state. That the host's actions are a list is the
model's choice (log entry 1), and so is that `tx`, `sm_out` and the read port stay as they are through an idle step (log
entries 7 and 8; R76 drives an output for the current step only). -/
def Obligations.IdleBlockHoldsItsState : Prop :=
  ∀ s : State, s.pending = [] → step s = .next s

/-- R38: the reset value of every piece of state. -/
def Obligations.ResetGivesTheTabulatedValues : Prop :=
  State.reset.freqReg = .empty ∧ State.reset.statusReg = .empty ∧ State.reset.classReg = .empty ∧
  State.reset.lastErr = 0x0000 ∧ State.reset.fault = ⟨0, 0x00⟩ ∧ State.reset.txh = []

/-- R250: a reset the platform applies, to a faulted block too, gives every register and the transmit history its reset
value. What the host does after it is the model's own field (log entry 9). -/
def Obligations.PlatformResetRestoresResetState : Prop :=
  ∀ (s : State) (rest : List HostAction), s.pending = .reset :: rest →
    step s = .next { State.reset with pending := rest }

/-! The encoder -/

/-- R102: ENCF emits the read-frequency frame once and writes nothing but `TXH` and the `tx` output. -/
def Obligations.EncfEmitsTheReadFrequencyFrame : Prop :=
  ∀ s : State, exec .encf s =
    .next { s with txh := s.txh ++ [.emit Config.installed.cfg.frameRdFreq],
                   txOut := [.emit Config.installed.cfg.frameRdFreq], smOut := none }

/-- R103: ENCS emits the read-status frame once and writes nothing but `TXH` and the `tx` output. -/
def Obligations.EncsEmitsTheReadStatusFrame : Prop :=
  ∀ s : State, exec .encs s =
    .next { s with txh := s.txh ++ [.emit Config.installed.cfg.frameRdStat],
                   txOut := [.emit Config.installed.cfg.frameRdStat], smOut := none }

/-- R104: ENCM m emits the frames of `MACRO[m]` in table order, with a 500 ms gap between each two, and writes nothing but
`TXH` and the `tx` output. -/
def Obligations.EncmEmitsTheMacroWithGaps : Prop :=
  ∀ (m : BitVec 2) (s : State), exec (.encm m) s =
    .next { s with txh := s.txh ++ macroEvents (Config.installed.cfg.macros.get m.toFin),
                   txOut := macroEvents (Config.installed.cfg.macros.get m.toFin), smOut := none }

/-- R104, R105, R51: one ENCM step emits n frames, 1 to 5, and n − 1 gaps, begins and ends with a frame, and every gap is
of 500 ms. -/
def Obligations.EncmRecordsOneGapFewerThanFrames : Prop :=
  ∀ (m : BitVec 2) (s : State), ∃ t, exec (.encm m) s = .next t ∧
    ∃ n, 1 ≤ n ∧ n ≤ 5 ∧
      t.txOut.countP TxEvent.isEmit = n ∧
      (t.txOut.countP fun e => !e.isEmit) = n - 1 ∧
      (∀ ms, .gap ms ∈ t.txOut → ms = 500) ∧
      (∃ f, t.txOut.head? = some (.emit f)) ∧ (∃ f, t.txOut.getLast? = some (.emit f))

/-- R107: the encoder operations cannot fail, their output is the same in every state, and they neither read nor write
`FREQ_REG`, `STATUS_REG`, `CLASS_REG` or `LAST_ERR`: the result is the state with the same events added, whatever it
held. -/
def Obligations.EncoderOutputDependsOnlyOnTheOperand : Prop :=
  ∀ i : Instr, (i = .encf ∨ i = .encs ∨ ∃ m, i = .encm m) →
    ∃ es : List TxEvent, es ≠ [] ∧
      ∀ s : State, exec i s = .next { s with txh := s.txh ++ es, txOut := es, smOut := none }

/-! The frequency decoder -/

/-- R129: DECF on an accepted response. With `k` leading zero digits the display is `k` spaces, the characters of the other
digits and '0', and hz is 10 times the value of the other digits. The reading and its classification are committed, and
nothing else but the output ports changes. -/
def Obligations.DecfCommitsTheLeadingSpaceReading : Prop :=
  ∀ s : State, AcceptedFrequency s.ports →
    ∃ r : FreqReading,
      r.hz.toNat = 10 * decimalValue ((responseDigits s.ports.rx).toList.drop
        (leadingZeros (responseDigits s.ports.rx).toList)) ∧
      r.disp.toList = spacedDisplay (responseDigits s.ports.rx).toList ∧
      r.mode = s.ports.rx[4] ∧
      exec .decf s = .next { s with
        freqReg := .holds r,
        classReg := .holds ⟨Config.installed.cfg.classify r.hz, Config.installed.cfg.bandName r.hz,
          Config.installed.cfg.legalityNote r.disp⟩,
        txOut := [], smOut := none }

/-- R127: on success DECF replaces `FREQ_REG` by the reading of the response on its ports (R129: 10 times the value of the
digits, the leading-space display, the mode byte) and `CLASS_REG` by that reading's classification, with `LAST_ERR` as it
was; on any error it leaves both as they were. -/
def Obligations.DecfCommitsBothRegistersOrNeither : Prop :=
  ∀ s : State, ∃ t, exec .decf s = .next t ∧
    (AcceptedFrequency s.ports → t.lastErr = s.lastErr ∧ ∃ r : FreqReading,
      r.hz.toNat = 10 * decimalValue (responseDigits s.ports.rx).toList ∧
      r.disp.toList = spacedDisplay (responseDigits s.ports.rx).toList ∧
      r.mode = s.ports.rx[4] ∧
      t.freqReg = .holds r ∧
      t.classReg = .holds ⟨Config.installed.cfg.classify r.hz, Config.installed.cfg.bandName r.hz,
        Config.installed.cfg.legalityNote r.disp⟩) ∧
    (¬ AcceptedFrequency s.ports → t.freqReg = s.freqReg ∧ t.classReg = s.classReg)

/-- R120, R222: the frame of DECF. It never faults; it leaves `STATUS_REG`, `FAULT`, `TXH`, the input ports and the host's
list as they were, and drives no output port. -/
def Obligations.DecfFrame : Prop :=
  ∀ s : State, ∃ t, exec .decf s = .next t ∧ t.statusReg = s.statusReg ∧ t.fault = s.fault ∧ t.txh = s.txh ∧
    t.ports = s.ports ∧ t.rdOut = s.rdOut ∧ t.pending = s.pending ∧ t.txOut = [] ∧ t.smOut = none

/-- R124: fewer than 5 bytes is TransportTimeout, ShortRead; more than 5 is MalformedResponse, ExcessBytes; both with the
count in `AUX`. -/
def Obligations.DecfByteCountErrors : Prop :=
  ∀ s : State,
    (s.ports.rxCount.toNat < 5 → exec .decf s =
      .next { s with lastErr := BitVec.ofNat 16 (0x4000 + 0x100 * s.ports.rxCount.toNat), txOut := [], smOut := none }) ∧
    (5 < s.ports.rxCount.toNat → exec .decf s =
      .next { s with lastErr := BitVec.ofNat 16 (0x9000 + 0x100 * s.ports.rxCount.toNat), txOut := [], smOut := none })

/-- R125: a digit above 9 at position `p`, with none before it, is MalformedResponse, BadDigit with `AUX` = `p` and `VAL` =
the nibble, inside the leading-zero run too. -/
def Obligations.DecfReportsTheLowestBadDigit : Prop :=
  ∀ (s : State) (p : Nat) (d : Nibble), s.ports.rxCount = 5 →
    (responseDigits s.ports.rx).toList[p]? = some d → 9 < d.toNat →
    (∀ q e, q < p → (responseDigits s.ports.rx).toList[q]? = some e → GoodDigit e) →
    exec .decf s =
      .next { s with lastErr := BitVec.ofNat 16 (0xA000 + 0x100 * p + d.toNat), txOut := [], smOut := none }

/-- R126: with good digits, a mode outside `MODE_SET` is MalformedResponse, BadMode with `VAL` = the mode; a mode inside it
is stored, and has a label. -/
def Obligations.DecfLooksTheModeUp : Prop :=
  ∀ s : State, s.ports.rxCount = 5 → (∀ d ∈ (responseDigits s.ports.rx).toList, GoodDigit d) →
    (s.ports.rx[4] ∉ modeSet → exec .decf s =
      .next { s with lastErr := BitVec.ofNat 16 (0xB000 + s.ports.rx[4].toNat), txOut := [], smOut := none }) ∧
    (s.ports.rx[4] ∈ modeSet → ∃ t r, exec .decf s = .next t ∧ t.freqReg = .holds r ∧ r.mode = s.ports.rx[4] ∧
      (Config.installed.cfg.modeLabel r.mode).isSome)

/-- R128: exactly one error is recorded: the byte count before a bad digit, the lowest bad digit before a bad mode. -/
def Obligations.DecfErrorPriority : Prop :=
  ∀ s : State, ∃ t, exec .decf s = .next t ∧
    (s.ports.rxCount.toNat < 5 → lastErrKind t.lastErr = 1 ∧ lastErrCause t.lastErr = 0) ∧
    (5 < s.ports.rxCount.toNat → lastErrKind t.lastErr = 2 ∧ lastErrCause t.lastErr = 1) ∧
    (s.ports.rxCount = 5 → (∃ d ∈ (responseDigits s.ports.rx).toList, ¬ GoodDigit d) →
      lastErrKind t.lastErr = 2 ∧ lastErrCause t.lastErr = 2 ∧
      (∃ d, (responseDigits s.ports.rx).toList[(lastErrAux t.lastErr).toNat]? = some d ∧ ¬ GoodDigit d) ∧
      ∀ q e, (responseDigits s.ports.rx).toList[q]? = some e → ¬ GoodDigit e → (lastErrAux t.lastErr).toNat ≤ q) ∧
    (s.ports.rxCount = 5 → (∀ d ∈ (responseDigits s.ports.rx).toList, GoodDigit d) → s.ports.rx[4] ∉ modeSet →
      lastErrKind t.lastErr = 2 ∧ lastErrCause t.lastErr = 3)

/-- R130: DECF on `Synth(hz, c)` gives back `hz` and `c`. -/
def Obligations.DecfRoundTripsSyntheticResponses : Prop :=
  ∀ (s : State) (hz : Nat) (c : Byte), hz % 10 = 0 → hz ≤ 999999990 → c ∈ modeSet →
    s.ports.rx = synthResponse hz c → s.ports.rxCount = 5 →
    ∃ t r, exec .decf s = .next t ∧ t.freqReg = .holds r ∧ r.hz.toNat = hz ∧ r.mode = c

/-- R131: on accepted responses the frequency and the mode determine all 5 bytes, and the frequency determines the
display. -/
def Obligations.DecfIsInjectiveOnAcceptedResponses : Prop :=
  ∀ (s s' t t' : State) (r r' : FreqReading), AcceptedFrequency s.ports → AcceptedFrequency s'.ports →
    exec .decf s = .next t → exec .decf s' = .next t' → t.freqReg = .holds r → t'.freqReg = .holds r' →
    (r.hz = r'.hz → r.disp = r'.disp) ∧ (r.hz = r'.hz → r.mode = r'.mode → s.ports.rx = s'.ports.rx)

/-! The status decoder -/

/-- R158: the closed form of the word DECS commits, its form under the identity table, and R158's four examples. -/
def Obligations.DecsCommitsTheClosedFormWord : Prop :=
  (∀ s : State, s.ports.rxCount = 1 → exec .decs s =
    .next { s with
      statusReg := .holds ((s.ports.rx[0] &&& 0xC0#8) ||| (~~~ s.ports.rx[0] &&& 0x20#8) |||
        (Config.installed.cfg.smeterExt.get (s.ports.rx[0].setWidth 4).toFin).setWidth 8),
      txOut := [], smOut := none }) ∧
  ∀ cfg : Config, cfg.smeterExt = identityExt →
    (∀ b : Byte, decodeStatus cfg b = (b &&& 0xEF) ^^^ 0x20) ∧
    decodeStatus cfg 0x96 = 0xA6 ∧ decodeStatus cfg 0x20 = 0x00 ∧ decodeStatus cfg 0xFF = 0xCF ∧
    decodeStatus cfg 0x10 = 0x20

/-- R151: squelchClosed is bit 7 of the status byte, subToneMismatch is bit 6, discriminatorCentered is 1 exactly when bit
5 is 0. -/
def Obligations.DecsFlagPolarity : Prop :=
  ∀ s : State, s.ports.rxCount = 1 → ∃ t w, exec .decs s = .next t ∧ t.statusReg = .holds w ∧
    (statusSql w = 1 ↔ s.ports.rx[0].getLsbD 7 = true) ∧
    (statusTmm w = 1 ↔ s.ports.rx[0].getLsbD 6 = true) ∧
    (statusDcen w = 1 ↔ s.ports.rx[0].getLsbD 5 = false)

/-- R152: no byte is TransportTimeout, ShortRead; two or more are MalformedResponse, ExcessBytes with the count. -/
def Obligations.DecsByteCountErrors : Prop :=
  ∀ s : State,
    (s.ports.rxCount = 0 → exec .decs s = .next { s with lastErr := 0x4800, txOut := [], smOut := none }) ∧
    (2 ≤ s.ports.rxCount.toNat → exec .decs s =
      .next { s with lastErr := BitVec.ofNat 16 (0x9800 + 0x100 * s.ports.rxCount.toNat), txOut := [], smOut := none })

/-- R154: two status bytes that differ only in bit 4 decode to the same word. -/
def Obligations.DecsIgnoresBitFour : Prop :=
  ∀ s s' : State, s.ports.rxCount = 1 → s'.ports.rxCount = 1 → s.ports.rx[0] ^^^ s'.ports.rx[0] = 0x10 →
    ∃ t t' w, exec .decs s = .next t ∧ exec .decs s' = .next t' ∧
      t.statusReg = .holds w ∧ t'.statusReg = .holds w

/-- R157: on success `STATUS_REG` is replaced and `LAST_ERR` is not touched; on error `STATUS_REG` is unchanged; `FREQ_REG`
and `CLASS_REG` are never written. The rest of the frame of DECS is stated with it. -/
def Obligations.DecsCommitsOrKeepsStatus : Prop :=
  ∀ s : State, ∃ t, exec .decs s = .next t ∧
    (s.ports.rxCount = 1 → t.statusReg = .holds (decodeStatus Config.installed.cfg s.ports.rx[0]) ∧
      t.lastErr = s.lastErr) ∧
    (s.ports.rxCount ≠ 1 → t.statusReg = s.statusReg) ∧
    t.freqReg = s.freqReg ∧ t.classReg = s.classReg ∧ t.fault = s.fault ∧ t.txh = s.txh ∧
    t.ports = s.ports ∧ t.rdOut = s.rdOut ∧ t.pending = s.pending ∧ t.txOut = [] ∧ t.smOut = none

/-! The S-meter scale -/

/-- R172: the scale is the tabulated one, at every level. -/
def Obligations.ScaleIsTheTabulatedLut : Prop :=
  ∀ level : BitVec 5, scaleOf level = tableRecord level

/-- R170, R172: FMTS drives the table's record for the level of its source, and writes no register; with source 1 on an
empty `STATUS_REG` it takes `F_EMPTY_REG` with command 0x61 and drives nothing (R224, R226). That taking the fault is a
next state is the model's choice (log entry 5; R226 says that the step does not complete). -/
def Obligations.FmtsDrivesTheRecordOfItsLevel : Prop :=
  (∀ s : State, exec (.fmts 0) s =
    .next { s with txOut := [], smOut := some (tableRecord s.ports.lvl) }) ∧
  (∀ (s : State) (w : Byte), s.statusReg = .holds w → exec (.fmts 1) s =
    .next { s with txOut := [], smOut := some (tableRecord (w.setWidth 5)) }) ∧
  (∀ s : State, s.statusReg = .empty → exec (.fmts 1) s =
    .next { s with txOut := [], smOut := none, fault := ⟨2, 0x61⟩ })

/-- R176: the marks and dots are 31 cells at every level, and the marks of either kind are as many as the level. -/
def Obligations.ScaleCellCounts : Prop :=
  ∀ level : BitVec 5, (scaleOf level).cells.length = 31 ∧
    (scaleOf level).cells.count .mark + (scaleOf level).cells.count .alt = level.toNat ∧
    (scaleOf level).cells.count .mark + (scaleOf level).cells.count .alt + (scaleOf level).cells.count .dot = 31

/-- R171: the string of the record is the label and one glyph per cell, `|` for a mark, `GLYPH_ALT` for an alternate mark
and `.` for a dot, with nothing between and nothing after. Under R5's constraint on `GLYPH_ALT` the 31 cells can be read
back from the glyphs. -/
def Obligations.RenderedBarCanBeReadBack : Prop :=
  ∀ level : BitVec 5,
    (∃ glyphs : Text, renderSm Config.installed.cfg (scaleOf level) = (scaleOf level).label ++ glyphs ∧
      glyphs.length = 31 ∧
      (∀ k : Nat, ∀ c : Symbol, (scaleOf level).cells[k]? = some c →
        glyphs[k]? = some (match c with | .mark => 0x7C | .alt => Config.installed.cfg.glyphAlt | .dot => 0x2E)) ∧
      glyphs.map (fun g => if g = 0x7C then Symbol.mark else if g = 0x2E then Symbol.dot else Symbol.alt) =
        (scaleOf level).cells)

/-- R178: FMTS writes no register. The one exception is the fault R170 and R224 give it: with source 1 on an empty
`STATUS_REG` it raises `F_EMPTY_REG`, which writes `FAULT` (R226). That this too is a next state is the model's choice (log
entry 5). -/
def Obligations.FmtsFrame : Prop :=
  ∀ (src : BitVec 1) (s : State), ∃ t, exec (.fmts src) s = .next t ∧ t.freqReg = s.freqReg ∧
    t.statusReg = s.statusReg ∧ t.classReg = s.classReg ∧ t.lastErr = s.lastErr ∧ t.txh = s.txh ∧
    t.ports = s.ports ∧ t.rdOut = s.rdOut ∧ t.pending = s.pending ∧ t.txOut = [] ∧
    (src = 0 ∨ s.statusReg ≠ .empty → t.fault = s.fault)

/-! Session control -/

/-- R190: CLRE writes 0x0000 to `LAST_ERR` and changes no other register. -/
def Obligations.ClreClearsTheLastError : Prop :=
  ∀ s : State, exec .clre s = .next { s with lastErr := 0x0000, txOut := [], smOut := none }

/-- R30: which instructions write `LAST_ERR`. CLRE writes 0x0000; a decoder that finds an error writes one of R221's words,
whatever stood there before; a decoder that succeeds, and every other instruction, leaves it. That every instruction
answers a next state is no part of R30: for FMTS 1 on an empty `STATUS_REG`, which raises a fault, it is the model's choice
(log entry 5). -/
def Obligations.LastErrorWritePolicy : Prop :=
  ∀ (i : Instr) (s : State), ∃ t, exec i s = .next t ∧
    (i = .clre → t.lastErr = 0x0000) ∧
    ((i = .decf ∧ ¬ AcceptedFrequency s.ports) ∨ (i = .decs ∧ s.ports.rxCount ≠ 1) →
      LegalLastErr t.lastErr ∧ t.lastErr ≠ 0x0000 ∧
      ∀ e : BitVec 16, ∃ t', exec i { s with lastErr := e } = .next t' ∧ t'.lastErr = t.lastErr) ∧
    ((i = .decf ∧ AcceptedFrequency s.ports) ∨ (i = .decs ∧ s.ports.rxCount = 1) ∨
        (i ≠ .decf ∧ i ≠ .decs ∧ i ≠ .clre) →
      t.lastErr = s.lastErr)

/-- R29, R222: where each part of a soft error lands in `LAST_ERR`. -/
def Obligations.SoftErrorFieldLayout : Prop :=
  ∀ e : SoftError, lastErrKind e.word = e.kind.code ∧ lastErrCause e.word = e.cause.code ∧
    lastErrSrc e.word = e.src ∧ lastErrAux e.word = e.aux ∧ lastErrVal e.word = e.value

/-! The whole machine -/

/-- R37: which register each instruction may write, over all instructions; the input ports, the read port and the host's
list are no instruction's to write. -/
def Obligations.EachRegisterHasItsOnlyWriters : Prop :=
  ∀ (i : Instr) (s t : State), exec i s = .next t →
    (i ≠ .decf → t.freqReg = s.freqReg ∧ t.classReg = s.classReg) ∧
    (i ≠ .decs → t.statusReg = s.statusReg) ∧
    (i ≠ .decf → i ≠ .decs → i ≠ .clre → t.lastErr = s.lastErr) ∧
    (i ≠ .encf → i ≠ .encs → (∀ m, i ≠ .encm m) → t.txh = s.txh ∧ t.txOut = []) ∧
    ((∀ src, i ≠ .fmts src) → t.smOut = none) ∧
    (i ≠ .fmts 1 → t.fault = s.fault) ∧
    t.ports = s.ports ∧ t.rdOut = s.rdOut ∧ t.pending = s.pending

/-- R35, R24: every instruction keeps `FREQ_REG` legal, from any state whose `FREQ_REG` is. -/
def Obligations.FreqRegStaysLegal : Prop :=
  ∀ (i : Instr) (s t : State), (∀ r, s.freqReg = .holds r → r.Legal) → exec i s = .next t →
    ∀ r, t.freqReg = .holds r → r.Legal

/-- The invariant holds after reset. -/
def Obligations.ResetStateMeetsTheInvariant : Prop := State.reset.Inv

/-- R24, R26, R29, R31, R34, R35, R36: every step keeps the invariant, from every state that meets it. -/
def Obligations.EveryStepKeepsTheInvariant : Prop :=
  ∀ s t : State, s.Inv → step s = .next t → t.Inv

/-- R34: the transmit history only grows at its end, except at a reset. -/
def Obligations.TransmitHistoryIsAppendOnly : Prop :=
  ∀ s t : State, s.NotReset → step s = .next t → s.txh <+: t.txh

/-- R28: no step but a reset empties a held register. -/
def Obligations.OnlyResetEmptiesAHeldRegister : Prop :=
  ∀ s t : State, s.NotReset → step s = .next t →
    (s.freqReg.valid = true → t.freqReg.valid = true) ∧ (s.statusReg.valid = true → t.statusReg.valid = true) ∧
    (s.classReg.valid = true → t.classReg.valid = true)

/-- R223: what `LAST_ERR` holds changes nothing any instruction does: with another value in it the instruction answers the
same state, but for `LAST_ERR` itself, which is either written alike or kept. -/
def Obligations.LastErrorInfluencesNoInstruction : Prop :=
  ∀ (i : Instr) (s t : State) (e : BitVec 16), exec i s = .next t →
    exec i { s with lastErr := e } = .next t ∨
    (t.lastErr = s.lastErr ∧ exec i { s with lastErr := e } = .next { t with lastErr := e })

/-- R75: the bytes of `rx` from index `rx_count` on are not read: with others there, every instruction answers the same
state but for the port itself. -/
def Obligations.BytesPastTheCountAreNotRead : Prop :=
  ∀ (i : Instr) (s t : State) (rx : Vector Byte 5),
    (∀ k : Fin 5, k.val < s.ports.rxCount.toNat → rx.get k = s.ports.rx.get k) → exec i s = .next t →
    exec i { s with ports := { s.ports with rx := rx } } = .next { t with ports := { t.ports with rx := rx } }

/-- R57: running an instruction again with the same inputs leaves the held registers as the first run left them. -/
def Obligations.InstructionsAreIdempotentOnHeldRegisters : Prop :=
  ∀ (i : Instr) (s t : State), exec i s = .next t → ∃ u, exec i t = .next u ∧ u.held = t.held

/-- R27, R39, R224: a host read of a register that holds a value gives it and has no side effect; a read of any field of an
empty register takes `F_EMPTY_REG` with command 0x00, and in a block that is faulted already it leaves every register and
`FAULT` as they were and gives nothing. The model's choices in it: what a read names, where its value stands and the read in
a faulted block (log entry 8), `tx` and `sm_out` kept over a read (log entry 7), and the fault's entry as a next state (log
entry 5). -/
def Obligations.HostReadsOfHeldRegisters : Prop :=
  ∀ (s : State) (rest : List HostAction) (r : ReadPort), s.pending = .read r :: rest →
    (∀ v, s.freqReg = .holds v →
      (r = .freqHz → step s = .next { s with pending := rest, rdOut := some (.hz v.hz) }) ∧
      (r = .freqDisp → step s = .next { s with pending := rest, rdOut := some (.disp v.disp) }) ∧
      (r = .freqMode → step s = .next { s with pending := rest, rdOut := some (.byte v.mode) })) ∧
    (∀ w, s.statusReg = .holds w → r = .statusWord →
      step s = .next { s with pending := rest, rdOut := some (.byte w) }) ∧
    (∀ c, s.classReg = .holds c →
      (r = .classRegion → step s = .next { s with pending := rest, rdOut := some (.text c.region) }) ∧
      (r = .classBand → step s = .next { s with pending := rest, rdOut := some (.text c.band) }) ∧
      (r = .classNote → step s = .next { s with pending := rest, rdOut := some (.text c.note) })) ∧
    (s.fault.code = 0 →
      ((r = .freqHz ∨ r = .freqDisp ∨ r = .freqMode) ∧ s.freqReg = .empty) ∨
      (r = .statusWord ∧ s.statusReg = .empty) ∨
      ((r = .classRegion ∨ r = .classBand ∨ r = .classNote) ∧ s.classReg = .empty) →
      step s = .next { s with pending := rest, rdOut := none, txOut := [], smOut := none, fault := ⟨2, 0x00⟩ }) ∧
    (s.fault.code ≠ 0 →
      ((r = .freqHz ∨ r = .freqDisp ∨ r = .freqMode) ∧ s.freqReg = .empty) ∨
      (r = .statusWord ∧ s.statusReg = .empty) ∨
      ((r = .classRegion ∨ r = .classBand ∨ r = .classNote) ∧ s.classReg = .empty) →
      step s = .next { s with pending := rest, rdOut := none })

/-- R29, R39, R254: a read of `LAST_ERR`, of `FAULT` or of a `valid` bit always gives its value and has no side effect. The
model's choices in it: that a faulted block still answers reads (log entry 5, DEDUCED), where the value stands (log entry
8), and `tx` and `sm_out` kept over the read (log entry 7). -/
def Obligations.AlwaysReadableRegisters : Prop :=
  ∀ (s : State) (rest : List HostAction) (r : ReadPort), s.pending = .read r :: rest →
    (r = .lastErr → step s = .next { s with pending := rest, rdOut := some (.lastErr s.lastErr) }) ∧
    (r = .fault → step s = .next { s with pending := rest, rdOut := some (.fault s.fault) }) ∧
    (r = .freqValid → step s = .next { s with pending := rest, rdOut := some (.bit s.freqReg.valid) }) ∧
    (r = .statusValid → step s = .next { s with pending := rest, rdOut := some (.bit s.statusReg.valid) }) ∧
    (r = .classValid → step s = .next { s with pending := rest, rdOut := some (.bit s.classReg.valid) })

/-- R5, R252: what the installed configuration is known to satisfy: macros of 1 to 5 frames, distinct names, of which the
first two are `gb3ts` and `gb3nt` (R106, decision D15), a label for each mode code with "Upper Sideband" for 0x01, an alternate glyph that is neither of the others. -/
def Obligations.InstalledConfigurationMeetsItsConstraints : Prop :=
  (∀ m : Fin 4, 1 ≤ (Config.installed.cfg.macros.get m).length ∧ (Config.installed.cfg.macros.get m).length ≤ 5) ∧
  (∀ m n : Fin 4, Config.installed.cfg.macroNames.get m = Config.installed.cfg.macroNames.get n → m = n) ∧
  Config.installed.cfg.macroNames[0] = ascii ['g', 'b', '3', 't', 's'] ∧
  Config.installed.cfg.macroNames[1] = ascii ['g', 'b', '3', 'n', 't'] ∧
  (∀ c ∈ modeSet, (Config.installed.cfg.modeLabel c).isSome) ∧
  Config.installed.cfg.modeLabel 0x01 =
    some (ascii ['U', 'p', 'p', 'e', 'r', ' ', 'S', 'i', 'd', 'e', 'b', 'a', 'n', 'd']) ∧
  Config.installed.cfg.glyphAlt ≠ 0x7C ∧ Config.installed.cfg.glyphAlt ≠ 0x2E

/-! The host sequences -/

/-- R192: a frequency query to which no byte ever comes ends with TransportTimeout recorded (0x4000) and the held readings
as they were; it sent the read-frequency frame. -/
def Obligations.FrequencyQueryTimesOut : Prop :=
  ∀ x : Session, x.block.fault.code = 0 → x.link.coming = [] →
    ∃ y, x.queryF = .next y ∧ y.block.lastErr = 0x4000 ∧ y.block.held = x.block.held ∧
      y.block.txh = x.block.txh ++ [.emit Config.installed.cfg.frameRdFreq] ∧
      y.link.written = x.link.written ++ [(x.link.clock, Config.installed.cfg.frameRdFreq.toList)]

/-- R257: a frequency query discards stale input: what stood in the input buffer makes no difference to it. -/
def Obligations.FrequencyQueryDiscardsStaleInput : Prop :=
  ∀ (x : Session) (stale : List Byte), ({ x with link := { x.link with inBuf := stale } } : Session).queryF = x.queryF

/-- R258: a status query decodes the first stale byte of the input buffer as status, with no error, and leaves the bytes
behind it in the buffer. -/
def Obligations.StatusQueryDecodesAStaleByte : Prop :=
  ∀ (x : Session) (b : Byte) (rest : List Byte), x.block.fault.code = 0 → x.link.inBuf = b :: rest →
    ∃ y, x.queryS = .next y ∧ y.block.statusReg = .holds (decodeStatus Config.installed.cfg b) ∧
      y.block.lastErr = x.block.lastErr ∧ y.link.inBuf = rest

/-- R194, R256: running macro `m` by its name writes its frames in order, any two of them at least 500 ms apart, for every
host that honours each gap, however much longer it waits at one gap or another. That the host honours the gaps is the
premise R256 and R237 want stated; here it is how the model's host waits (log entry 14), and the times are those of the
model's clock (log entry 11, unsafe for claims about times; log entry 20). -/
def Obligations.MacroFramesAreWrittenInOrderAndApart : Prop :=
  ∀ (x : Session) (m : BitVec 2) (extra : List Nat), x.block.fault.code = 0 →
    ∃ y ws, x.runMacro Config.installed.cfg extra (Config.installed.cfg.macroNames.get m.toFin) = .next y ∧
      y.link.written = x.link.written ++ ws ∧
      ws.map Prod.snd = (Config.installed.cfg.macros.get m.toFin).map Vector.toList ∧
      ws.Pairwise fun a b => a.1 + 500 ≤ b.1

/-- R194: a name that is no macro's is a host error before any block step. That its outcome is the refusal
`unknownMacroName` is the model's choice (log entry 18). -/
def Obligations.UnknownMacroNameIsRefused : Prop :=
  ∀ (x : Session) (extra : List Nat) (name : Text), name ∉ Config.installed.cfg.macroNames.toList →
    x.runMacro Config.installed.cfg extra name = .refused .unknownMacroName

/-- R197: a tick of the polling loop is QUERYF, then QUERYS, then the host reads the registers and takes the error: it reports
what `LAST_ERR` held after the two queries and leaves it 0x0000; it reports every field of each register that holds a value
and reads no empty one; the held registers, `FAULT` and `TXH` stay as the queries left them. That the host checks the
`valid` bits before it reads is the model's choice (log entry 23). -/
def Obligations.PollingTickReportsAndClearsTheError : Prop :=
  ∀ x : Session, x.block.fault.code = 0 →
    ∃ y z r b, x.queryF = .next y ∧ y.queryS = .next z ∧ x.tick = .next (r, { z with block := b }) ∧
      r.error = some (.lastErr z.block.lastErr) ∧ b.lastErr = 0x0000 ∧
      b.held = z.block.held ∧ b.fault = z.block.fault ∧ b.txh = z.block.txh ∧
      (∀ v, z.block.freqReg = .holds v → (.freqHz, some (.hz v.hz)) ∈ r.readings ∧
        (.freqDisp, some (.disp v.disp)) ∈ r.readings ∧ (.freqMode, some (.byte v.mode)) ∈ r.readings) ∧
      (∀ w, z.block.statusReg = .holds w → (.statusWord, some (.byte w)) ∈ r.readings) ∧
      (∀ c, z.block.classReg = .holds c → (.classRegion, some (.text c.region)) ∈ r.readings ∧
        (.classBand, some (.text c.band)) ∈ r.readings ∧ (.classNote, some (.text c.note)) ∈ r.readings) ∧
      ∀ q ∈ r.readings, q.2 ≠ none

/-- R197: on a block that is not faulted the polling loop runs any number of ticks at any cadence, with a report of each; it
emits the two read frames in turn, and nothing else, never faults the block, and `n` ticks take at least `n` times the
cadence on the model's clock (when a tick begins is the model's choice, log entry 23; its clock is log entry 11's). -/
def Obligations.PollingLoopRepeatsTheTwoQueries : Prop :=
  ∀ (cadence ticks : Nat) (x : Session), x.block.fault.code = 0 →
    ∃ rs y, Session.pollingLoop cadence ticks x = .next (rs, y) ∧ rs.length = ticks ∧ y.block.fault.code = 0 ∧
      y.block.txh = x.block.txh ++ (List.replicate ticks
        [.emit Config.installed.cfg.frameRdFreq, .emit Config.installed.cfg.frameRdStat]).flatten ∧
      x.link.clock + ticks * cadence ≤ y.link.clock
end

