-- ==== Sys2Proof/Laws/State.lean ====
section
/-! SUPPORT. One lemma per field and per update of State: what each named operation leaves in each field. -/
namespace Sys2Proof.Machine

variable (s : State)

/-! `quiet` -/
@[simp] theorem State.quiet_freqReg : (s.quiet).freqReg = s.freqReg := rfl
@[simp] theorem State.quiet_statusReg : (s.quiet).statusReg = s.statusReg := rfl
@[simp] theorem State.quiet_classReg : (s.quiet).classReg = s.classReg := rfl
@[simp] theorem State.quiet_lastErr : (s.quiet).lastErr = s.lastErr := rfl
@[simp] theorem State.quiet_fault : (s.quiet).fault = s.fault := rfl
@[simp] theorem State.quiet_txh : (s.quiet).txh = s.txh := rfl
@[simp] theorem State.quiet_ports : (s.quiet).ports = s.ports := rfl
@[simp] theorem State.quiet_txOut : (s.quiet).txOut = [] := rfl
@[simp] theorem State.quiet_smOut : (s.quiet).smOut = none := rfl
@[simp] theorem State.quiet_rdOut : (s.quiet).rdOut = s.rdOut := rfl
@[simp] theorem State.quiet_pending : (s.quiet).pending = s.pending := rfl

/-! `transmit` -/
@[simp] theorem State.transmit_freqReg (es : List TxEvent) : (s.transmit es).freqReg = s.freqReg := rfl
@[simp] theorem State.transmit_statusReg (es : List TxEvent) : (s.transmit es).statusReg = s.statusReg := rfl
@[simp] theorem State.transmit_classReg (es : List TxEvent) : (s.transmit es).classReg = s.classReg := rfl
@[simp] theorem State.transmit_lastErr (es : List TxEvent) : (s.transmit es).lastErr = s.lastErr := rfl
@[simp] theorem State.transmit_fault (es : List TxEvent) : (s.transmit es).fault = s.fault := rfl
@[simp] theorem State.transmit_txh (es : List TxEvent) : (s.transmit es).txh = s.txh ++ es := rfl
@[simp] theorem State.transmit_ports (es : List TxEvent) : (s.transmit es).ports = s.ports := rfl
@[simp] theorem State.transmit_txOut (es : List TxEvent) : (s.transmit es).txOut = s.txOut ++ es := rfl
@[simp] theorem State.transmit_smOut (es : List TxEvent) : (s.transmit es).smOut = s.smOut := rfl
@[simp] theorem State.transmit_rdOut (es : List TxEvent) : (s.transmit es).rdOut = s.rdOut := rfl
@[simp] theorem State.transmit_pending (es : List TxEvent) : (s.transmit es).pending = s.pending := rfl

/-! `emit` -/
@[simp] theorem State.emit_freqReg (f : Frame) : (s.emit f).freqReg = s.freqReg := rfl
@[simp] theorem State.emit_statusReg (f : Frame) : (s.emit f).statusReg = s.statusReg := rfl
@[simp] theorem State.emit_classReg (f : Frame) : (s.emit f).classReg = s.classReg := rfl
@[simp] theorem State.emit_lastErr (f : Frame) : (s.emit f).lastErr = s.lastErr := rfl
@[simp] theorem State.emit_fault (f : Frame) : (s.emit f).fault = s.fault := rfl
@[simp] theorem State.emit_txh (f : Frame) : (s.emit f).txh = s.txh ++ [.emit f] := rfl
@[simp] theorem State.emit_ports (f : Frame) : (s.emit f).ports = s.ports := rfl
@[simp] theorem State.emit_txOut (f : Frame) : (s.emit f).txOut = s.txOut ++ [.emit f] := rfl
@[simp] theorem State.emit_smOut (f : Frame) : (s.emit f).smOut = s.smOut := rfl
@[simp] theorem State.emit_rdOut (f : Frame) : (s.emit f).rdOut = s.rdOut := rfl
@[simp] theorem State.emit_pending (f : Frame) : (s.emit f).pending = s.pending := rfl

/-! `gap` -/
@[simp] theorem State.gap_freqReg (ms : Nat) : (s.gap ms).freqReg = s.freqReg := rfl
@[simp] theorem State.gap_statusReg (ms : Nat) : (s.gap ms).statusReg = s.statusReg := rfl
@[simp] theorem State.gap_classReg (ms : Nat) : (s.gap ms).classReg = s.classReg := rfl
@[simp] theorem State.gap_lastErr (ms : Nat) : (s.gap ms).lastErr = s.lastErr := rfl
@[simp] theorem State.gap_fault (ms : Nat) : (s.gap ms).fault = s.fault := rfl
@[simp] theorem State.gap_txh (ms : Nat) : (s.gap ms).txh = s.txh ++ [.gap ms] := rfl
@[simp] theorem State.gap_ports (ms : Nat) : (s.gap ms).ports = s.ports := rfl
@[simp] theorem State.gap_txOut (ms : Nat) : (s.gap ms).txOut = s.txOut ++ [.gap ms] := rfl
@[simp] theorem State.gap_smOut (ms : Nat) : (s.gap ms).smOut = s.smOut := rfl
@[simp] theorem State.gap_rdOut (ms : Nat) : (s.gap ms).rdOut = s.rdOut := rfl
@[simp] theorem State.gap_pending (ms : Nat) : (s.gap ms).pending = s.pending := rfl

/-! `driveSm` -/
@[simp] theorem State.driveSm_freqReg (o : SmOut) : (s.driveSm o).freqReg = s.freqReg := rfl
@[simp] theorem State.driveSm_statusReg (o : SmOut) : (s.driveSm o).statusReg = s.statusReg := rfl
@[simp] theorem State.driveSm_classReg (o : SmOut) : (s.driveSm o).classReg = s.classReg := rfl
@[simp] theorem State.driveSm_lastErr (o : SmOut) : (s.driveSm o).lastErr = s.lastErr := rfl
@[simp] theorem State.driveSm_fault (o : SmOut) : (s.driveSm o).fault = s.fault := rfl
@[simp] theorem State.driveSm_txh (o : SmOut) : (s.driveSm o).txh = s.txh := rfl
@[simp] theorem State.driveSm_ports (o : SmOut) : (s.driveSm o).ports = s.ports := rfl
@[simp] theorem State.driveSm_txOut (o : SmOut) : (s.driveSm o).txOut = s.txOut := rfl
@[simp] theorem State.driveSm_smOut (o : SmOut) : (s.driveSm o).smOut = some o := rfl
@[simp] theorem State.driveSm_rdOut (o : SmOut) : (s.driveSm o).rdOut = s.rdOut := rfl
@[simp] theorem State.driveSm_pending (o : SmOut) : (s.driveSm o).pending = s.pending := rfl

/-! `raiseSoft` -/
@[simp] theorem State.raiseSoft_freqReg (e : SoftError) : (s.raiseSoft e).freqReg = s.freqReg := rfl
@[simp] theorem State.raiseSoft_statusReg (e : SoftError) : (s.raiseSoft e).statusReg = s.statusReg := rfl
@[simp] theorem State.raiseSoft_classReg (e : SoftError) : (s.raiseSoft e).classReg = s.classReg := rfl
@[simp] theorem State.raiseSoft_lastErr (e : SoftError) : (s.raiseSoft e).lastErr = e.word := rfl
@[simp] theorem State.raiseSoft_fault (e : SoftError) : (s.raiseSoft e).fault = s.fault := rfl
@[simp] theorem State.raiseSoft_txh (e : SoftError) : (s.raiseSoft e).txh = s.txh := rfl
@[simp] theorem State.raiseSoft_ports (e : SoftError) : (s.raiseSoft e).ports = s.ports := rfl
@[simp] theorem State.raiseSoft_txOut (e : SoftError) : (s.raiseSoft e).txOut = [] := rfl
@[simp] theorem State.raiseSoft_smOut (e : SoftError) : (s.raiseSoft e).smOut = none := rfl
@[simp] theorem State.raiseSoft_rdOut (e : SoftError) : (s.raiseSoft e).rdOut = s.rdOut := rfl
@[simp] theorem State.raiseSoft_pending (e : SoftError) : (s.raiseSoft e).pending = s.pending := rfl

/-! `raiseFault` -/
@[simp] theorem State.raiseFault_freqReg (k : FaultKind) (c : Byte) : (s.raiseFault k c).freqReg = s.freqReg := rfl
@[simp] theorem State.raiseFault_statusReg (k : FaultKind) (c : Byte) : (s.raiseFault k c).statusReg = s.statusReg := rfl
@[simp] theorem State.raiseFault_classReg (k : FaultKind) (c : Byte) : (s.raiseFault k c).classReg = s.classReg := rfl
@[simp] theorem State.raiseFault_lastErr (k : FaultKind) (c : Byte) : (s.raiseFault k c).lastErr = s.lastErr := rfl
@[simp] theorem State.raiseFault_fault (k : FaultKind) (c : Byte) : (s.raiseFault k c).fault = ⟨k.code, c⟩ := rfl
@[simp] theorem State.raiseFault_txh (k : FaultKind) (c : Byte) : (s.raiseFault k c).txh = s.txh := rfl
@[simp] theorem State.raiseFault_ports (k : FaultKind) (c : Byte) : (s.raiseFault k c).ports = s.ports := rfl
@[simp] theorem State.raiseFault_txOut (k : FaultKind) (c : Byte) : (s.raiseFault k c).txOut = [] := rfl
@[simp] theorem State.raiseFault_smOut (k : FaultKind) (c : Byte) : (s.raiseFault k c).smOut = none := rfl
@[simp] theorem State.raiseFault_rdOut (k : FaultKind) (c : Byte) : (s.raiseFault k c).rdOut = s.rdOut := rfl
@[simp] theorem State.raiseFault_pending (k : FaultKind) (c : Byte) : (s.raiseFault k c).pending = s.pending := rfl

/-! `commitFreq` -/
@[simp] theorem State.commitFreq_freqReg (cfg : Config) (r : FreqReading) : (s.commitFreq cfg r).freqReg = .holds r := rfl
@[simp] theorem State.commitFreq_statusReg (cfg : Config) (r : FreqReading) : (s.commitFreq cfg r).statusReg = s.statusReg := rfl
@[simp] theorem State.commitFreq_classReg (cfg : Config) (r : FreqReading) : (s.commitFreq cfg r).classReg = .holds (classificationOf cfg r) := rfl
@[simp] theorem State.commitFreq_lastErr (cfg : Config) (r : FreqReading) : (s.commitFreq cfg r).lastErr = s.lastErr := rfl
@[simp] theorem State.commitFreq_fault (cfg : Config) (r : FreqReading) : (s.commitFreq cfg r).fault = s.fault := rfl
@[simp] theorem State.commitFreq_txh (cfg : Config) (r : FreqReading) : (s.commitFreq cfg r).txh = s.txh := rfl
@[simp] theorem State.commitFreq_ports (cfg : Config) (r : FreqReading) : (s.commitFreq cfg r).ports = s.ports := rfl
@[simp] theorem State.commitFreq_txOut (cfg : Config) (r : FreqReading) : (s.commitFreq cfg r).txOut = s.txOut := rfl
@[simp] theorem State.commitFreq_smOut (cfg : Config) (r : FreqReading) : (s.commitFreq cfg r).smOut = s.smOut := rfl
@[simp] theorem State.commitFreq_rdOut (cfg : Config) (r : FreqReading) : (s.commitFreq cfg r).rdOut = s.rdOut := rfl
@[simp] theorem State.commitFreq_pending (cfg : Config) (r : FreqReading) : (s.commitFreq cfg r).pending = s.pending := rfl

/-! `commitStatus` -/
@[simp] theorem State.commitStatus_freqReg (w : Byte) : (s.commitStatus w).freqReg = s.freqReg := rfl
@[simp] theorem State.commitStatus_statusReg (w : Byte) : (s.commitStatus w).statusReg = .holds w := rfl
@[simp] theorem State.commitStatus_classReg (w : Byte) : (s.commitStatus w).classReg = s.classReg := rfl
@[simp] theorem State.commitStatus_lastErr (w : Byte) : (s.commitStatus w).lastErr = s.lastErr := rfl
@[simp] theorem State.commitStatus_fault (w : Byte) : (s.commitStatus w).fault = s.fault := rfl
@[simp] theorem State.commitStatus_txh (w : Byte) : (s.commitStatus w).txh = s.txh := rfl
@[simp] theorem State.commitStatus_ports (w : Byte) : (s.commitStatus w).ports = s.ports := rfl
@[simp] theorem State.commitStatus_txOut (w : Byte) : (s.commitStatus w).txOut = s.txOut := rfl
@[simp] theorem State.commitStatus_smOut (w : Byte) : (s.commitStatus w).smOut = s.smOut := rfl
@[simp] theorem State.commitStatus_rdOut (w : Byte) : (s.commitStatus w).rdOut = s.rdOut := rfl
@[simp] theorem State.commitStatus_pending (w : Byte) : (s.commitStatus w).pending = s.pending := rfl

/-! `clearError` -/
@[simp] theorem State.clearError_freqReg : (s.clearError).freqReg = s.freqReg := rfl
@[simp] theorem State.clearError_statusReg : (s.clearError).statusReg = s.statusReg := rfl
@[simp] theorem State.clearError_classReg : (s.clearError).classReg = s.classReg := rfl
@[simp] theorem State.clearError_lastErr : (s.clearError).lastErr = 0x0000 := rfl
@[simp] theorem State.clearError_fault : (s.clearError).fault = s.fault := rfl
@[simp] theorem State.clearError_txh : (s.clearError).txh = s.txh := rfl
@[simp] theorem State.clearError_ports : (s.clearError).ports = s.ports := rfl
@[simp] theorem State.clearError_txOut : (s.clearError).txOut = s.txOut := rfl
@[simp] theorem State.clearError_smOut : (s.clearError).smOut = s.smOut := rfl
@[simp] theorem State.clearError_rdOut : (s.clearError).rdOut = s.rdOut := rfl
@[simp] theorem State.clearError_pending : (s.clearError).pending = s.pending := rfl

/-! `applyReset` -/
@[simp] theorem State.applyReset_freqReg : (s.applyReset).freqReg = State.reset.freqReg := rfl
@[simp] theorem State.applyReset_statusReg : (s.applyReset).statusReg = State.reset.statusReg := rfl
@[simp] theorem State.applyReset_classReg : (s.applyReset).classReg = State.reset.classReg := rfl
@[simp] theorem State.applyReset_lastErr : (s.applyReset).lastErr = State.reset.lastErr := rfl
@[simp] theorem State.applyReset_fault : (s.applyReset).fault = State.reset.fault := rfl
@[simp] theorem State.applyReset_txh : (s.applyReset).txh = State.reset.txh := rfl
@[simp] theorem State.applyReset_ports : (s.applyReset).ports = State.reset.ports := rfl
@[simp] theorem State.applyReset_txOut : (s.applyReset).txOut = State.reset.txOut := rfl
@[simp] theorem State.applyReset_smOut : (s.applyReset).smOut = State.reset.smOut := rfl
@[simp] theorem State.applyReset_rdOut : (s.applyReset).rdOut = State.reset.rdOut := rfl
@[simp] theorem State.applyReset_pending : (s.applyReset).pending = s.pending := rfl

/-! `drivePorts` -/
@[simp] theorem State.drivePorts_freqReg (p : InPorts) : (s.drivePorts p).freqReg = s.freqReg := rfl
@[simp] theorem State.drivePorts_statusReg (p : InPorts) : (s.drivePorts p).statusReg = s.statusReg := rfl
@[simp] theorem State.drivePorts_classReg (p : InPorts) : (s.drivePorts p).classReg = s.classReg := rfl
@[simp] theorem State.drivePorts_lastErr (p : InPorts) : (s.drivePorts p).lastErr = s.lastErr := rfl
@[simp] theorem State.drivePorts_fault (p : InPorts) : (s.drivePorts p).fault = s.fault := rfl
@[simp] theorem State.drivePorts_txh (p : InPorts) : (s.drivePorts p).txh = s.txh := rfl
@[simp] theorem State.drivePorts_ports (p : InPorts) : (s.drivePorts p).ports = p := rfl
@[simp] theorem State.drivePorts_txOut (p : InPorts) : (s.drivePorts p).txOut = s.txOut := rfl
@[simp] theorem State.drivePorts_smOut (p : InPorts) : (s.drivePorts p).smOut = s.smOut := rfl
@[simp] theorem State.drivePorts_rdOut (p : InPorts) : (s.drivePorts p).rdOut = none := rfl
@[simp] theorem State.drivePorts_pending (p : InPorts) : (s.drivePorts p).pending = s.pending := rfl

/-! `presentNext` -/
@[simp] theorem State.presentNext_freqReg (w : Byte) : (s.presentNext w).freqReg = s.freqReg := rfl
@[simp] theorem State.presentNext_statusReg (w : Byte) : (s.presentNext w).statusReg = s.statusReg := rfl
@[simp] theorem State.presentNext_classReg (w : Byte) : (s.presentNext w).classReg = s.classReg := rfl
@[simp] theorem State.presentNext_lastErr (w : Byte) : (s.presentNext w).lastErr = s.lastErr := rfl
@[simp] theorem State.presentNext_fault (w : Byte) : (s.presentNext w).fault = s.fault := rfl
@[simp] theorem State.presentNext_txh (w : Byte) : (s.presentNext w).txh = s.txh := rfl
@[simp] theorem State.presentNext_ports (w : Byte) : (s.presentNext w).ports = s.ports := rfl
@[simp] theorem State.presentNext_txOut (w : Byte) : (s.presentNext w).txOut = s.txOut := rfl
@[simp] theorem State.presentNext_smOut (w : Byte) : (s.presentNext w).smOut = s.smOut := rfl
@[simp] theorem State.presentNext_rdOut (w : Byte) : (s.presentNext w).rdOut = s.rdOut := rfl
@[simp] theorem State.presentNext_pending (w : Byte) : (s.presentNext w).pending = .present { s.ports with cmd := w } :: s.pending := rfl

end Sys2Proof.Machine
end

