-- ==== Sys2Proof/Laws/Ops.lean ====
section
/-! SUPPORT. One lemma per shared operation: everything it can do. Later proofs cite these and do not unfold the
operations. -/
namespace Sys2Proof.Machine

/-! Transmitting -/

@[simp] theorem TxEvent.isEmit_emit (f : Frame) : (TxEvent.emit f).isEmit = true := rfl
@[simp] theorem TxEvent.isEmit_gap (ms : Nat) : (TxEvent.gap ms).isEmit = false := rfl

/-- Two transmissions are one of both lists. -/
theorem State.transmit_transmit (s : State) (es fs : List TxEvent) :
    (s.transmit es).transmit fs = s.transmit (es ++ fs) := by
  simp [State.transmit, List.append_assoc]

/-- Nothing transmitted changes nothing. -/
theorem State.transmit_nil (s : State) : s.transmit [] = s := by
  simp [State.transmit]

/-- The events after an event, each with the gap before it, are what interspersing the gap puts there. -/
theorem intersperse_cons_eq (g : TxEvent) (e : TxEvent) (fs : List Frame) :
    (e :: fs.map TxEvent.emit).intersperse g = e :: fs.flatMap fun f => [g, .emit f] := by
  induction fs generalizing e with
  | nil => rfl
  | cons f fs ih =>
    rw [List.map_cons, List.intersperse_cons_cons, ih]
    rfl

/-- The frames after the first are transmitted each behind a gap. -/
theorem State.emitRest_eq (s : State) (fs : List Frame) :
    s.emitRest fs = s.transmit (fs.flatMap fun f => [.gap 500, .emit f]) := by
  induction fs generalizing s with
  | nil => exact (s.transmit_nil).symm
  | cons f fs ih =>
    rw [State.emitRest, ih, State.emit, State.gap, State.transmit_transmit, State.transmit_transmit]
    rfl

/-- `emitFrames` transmits the events of the frame sequence (R104). -/
theorem State.emitFrames_eq (s : State) (fs : List Frame) : s.emitFrames fs = s.transmit (macroEvents fs) := by
  cases fs with
  | nil => exact (s.transmit_nil).symm
  | cons f fs =>
    rw [State.emitFrames, State.emitRest_eq, State.emit, State.transmit_transmit, macroEvents, List.map_cons,
      intersperse_cons_eq]
    rfl

/-! The held registers -/

@[simp] theorem Held.valid_empty {α : Type} : (Held.empty : Held α).valid = false := rfl
@[simp] theorem Held.valid_holds {α : Type} (v : α) : (Held.holds v).valid = true := rfl
@[simp] theorem Held.field_empty {α : Type} (f : α → ReadValue) : (Held.empty : Held α).field f = none := rfl
@[simp] theorem Held.field_holds {α : Type} (v : α) (f : α → ReadValue) : (Held.holds v).field f = some (f v) := rfl

/-- A faulted block is one whose fault code is not 0. -/
theorem State.faulted_iff (s : State) : s.faulted = true ↔ s.fault.code ≠ 0 := by
  simp [State.faulted]

/-! Host reads -/

/-- A host read gives the value of a register that has one; else it raises `F_EMPTY_REG`, unless the block is faulted. -/
theorem State.hostRead_cases (s : State) (r : ReadPort) :
    (∃ v, s.readValue r = some v ∧ s.hostRead r = { s with rdOut := some v }) ∨
    (s.readValue r = none ∧ s.faulted = true ∧ s.hostRead r = { s with rdOut := none }) ∨
    (s.readValue r = none ∧ s.faulted = false ∧
      s.hostRead r = { s.raiseFault .emptyReg 0x00 with rdOut := none }) := by
  unfold State.hostRead
  cases hv : s.readValue r with
  | some v => exact .inl ⟨v, rfl, rfl⟩
  | none =>
    cases hf : s.faulted with
    | true => exact .inr (.inl ⟨rfl, rfl, rfl⟩)
    | false => exact .inr (.inr ⟨rfl, rfl, rfl⟩)

/-! The digit check -/

/-- No bad digit is found exactly when every digit is legal. -/
theorem firstBadDigitFrom_none_iff (p : Nat) (ds : List Nibble) :
    firstBadDigitFrom p ds = none ↔ ∀ d ∈ ds, GoodDigit d := by
  induction ds generalizing p with
  | nil => simp [firstBadDigitFrom]
  | cons d ds ih =>
    rw [firstBadDigitFrom]
    split
    · rename_i h
      simp [GoodDigit]
      intro h'
      omega
    · rename_i h
      rw [ih]
      simp [GoodDigit]
      intro _
      omega

/-- A digit found bad is above 9, stands at the position given, and every digit before it is legal. -/
theorem firstBadDigitFrom_some (p : Nat) (ds : List Nibble) (q : Nat) (d : Nibble)
    (h : firstBadDigitFrom p ds = some (q, d)) :
    ∃ k, q = p + k ∧ ds[k]? = some d ∧ 9 < d.toNat ∧ ∀ j e, j < k → ds[j]? = some e → GoodDigit e := by
  induction ds generalizing p with
  | nil => simp [firstBadDigitFrom] at h
  | cons x xs ih =>
    rw [firstBadDigitFrom] at h
    split at h
    · rename_i hx
      cases h
      exact ⟨0, rfl, rfl, hx, fun j e hj => absurd hj (Nat.not_lt_zero j)⟩
    · rename_i hx
      obtain ⟨k, hq, hk, hd, hb⟩ := ih (p + 1) h
      refine ⟨k + 1, by omega, by simpa using hk, hd, fun j e hj he => ?_⟩
      cases j with
      | zero =>
        simp only [List.getElem?_cons_zero, Option.some.injEq] at he
        subst he
        exact Nat.le_of_not_lt hx
      | succ j => exact hb j e (by omega) (by simpa using he)

/-! The digit walk -/

/-- Once the leading-zero flag is down, the walk writes every digit and folds it in (R122). -/
theorem walk_digits (ds : List Nibble) (w : Walk) (h : w.lz = false) :
    ds.foldl walkDigit w =
      { lz := false, disp := w.disp ++ ds.map digitChar, acc := ds.foldl (fun a d => 10 * a + d.toNat) w.acc } := by
  induction ds generalizing w with
  | nil => cases w; simp_all
  | cons d ds ih =>
    rw [List.foldl_cons, ih _ (by simp [walkDigit, h])]
    simp [walkDigit, h, Nat.mul_comm]

/-- While the flag is up the walk writes a space for each zero, and the rest as digits (R122). -/
theorem walk_spaces (ds : List Nibble) (t : Text) :
    (ds.foldl walkDigit ⟨true, t, 0⟩).disp =
        t ++ List.replicate (leadingZeros ds) (charByte ' ') ++ (ds.drop (leadingZeros ds)).map digitChar ∧
      (ds.foldl walkDigit ⟨true, t, 0⟩).acc = decimalValue ds := by
  induction ds generalizing t with
  | nil => simp [leadingZeros, decimalValue]
  | cons d ds ih =>
    by_cases hd : d = 0#4
    · subst hd
      have hs : walkDigit ⟨true, t, 0⟩ 0#4 = ⟨true, t ++ [charByte ' '], 0⟩ := by simp [walkDigit]
      have hz : leadingZeros (0#4 :: ds) = leadingZeros ds + 1 := by simp [leadingZeros]
      rw [List.foldl_cons, hs, hz]
      refine ⟨?_, ?_⟩
      · rw [(ih _).1]
        simp [List.replicate_succ, List.append_assoc]
      · rw [(ih _).2]
        simp [decimalValue]
    · have hz : leadingZeros (d :: ds) = 0 := by simp [leadingZeros, hd]
      rw [List.foldl_cons, hz, walk_digits _ _ (by simp [walkDigit, hd])]
      simp [walkDigit, hd, decimalValue]

/-! What one step can do -/

/-- The cases of a step that answers a next state: idle, a host read, reset, a legal word, an illegal word. -/
theorem step_cases {s s' : State} (h : step s = .next s') :
    (s.pending = [] ∧ s' = s) ∨
    (∃ r rest, s.pending = .read r :: rest ∧ s' = { s with pending := rest }.hostRead r) ∨
    (∃ rest, s.pending = .reset :: rest ∧ s' = { s with pending := rest }.applyReset) ∨
    (∃ p rest i, s.pending = .present p :: rest ∧ s.faulted = false ∧ decode p.cmd = .legal i ∧
      exec i ({ s with pending := rest }.drivePorts p) = .next s') ∨
    (∃ p rest why, s.pending = .present p :: rest ∧ s.faulted = false ∧ decode p.cmd = .illegal why ∧
      s' = ({ s with pending := rest }.drivePorts p).raiseFault .illegalCmd p.cmd) := by
  unfold step serveHost at h
  cases hp : s.pending with
  | nil =>
    rw [hp] at h
    cases h
    exact .inl ⟨rfl, rfl⟩
  | cons a rest =>
    rw [hp] at h
    cases a with
    | read r =>
      cases h
      exact .inr (.inl ⟨r, rest, rfl, rfl⟩)
    | reset =>
      cases h
      exact .inr (.inr (.inl ⟨rest, rfl, rfl⟩))
    | present p =>
      simp only [perform, runWord] at h
      split at h
      · cases h
      · rename_i hf
        have hf' : s.faulted = false := by simpa [State.faulted] using hf
        split at h
        · rename_i i hd
          exact .inr (.inr (.inr (.inl ⟨p, rest, i, rfl, hf', hd, h⟩)))
        · rename_i why hd
          cases h
          exact .inr (.inr (.inr (.inr ⟨p, rest, why, rfl, hf', hd, rfl⟩)))

/-- The cases of an instruction: what it does to the state it runs in (R102 to R104, R120, R150, R170, R190). -/
theorem exec_cases (i : Instr) (s : State) :
    (∃ id, exec i s = .next (s.quiet.transmit (macroEvents (romRead Config.installed.cfg id))) ∧
      (i = .encf ∨ i = .encs ∨ ∃ m, i = .encm m)) ∨
    (∃ r, i = .decf ∧ parseFrequency s.ports = .ok r ∧
      exec i s = .next (s.quiet.commitFreq Config.installed.cfg r)) ∨
    (∃ e, i = .decf ∧ parseFrequency s.ports = .error e ∧ exec i s = .next (s.raiseSoft e)) ∨
    (i = .decs ∧ s.ports.rxCount.toNat = 1 ∧
      exec i s = .next (s.quiet.commitStatus (decodeStatus Config.installed.cfg s.ports.rx[0]))) ∨
    (i = .decs ∧ s.ports.rxCount.toNat = 0 ∧
      exec i s = .next (s.raiseSoft ⟨.transportTimeout, .shortRead, 1, s.ports.rxCount, 0⟩)) ∨
    (i = .decs ∧ 1 < s.ports.rxCount.toNat ∧
      exec i s = .next (s.raiseSoft ⟨.malformedResponse, .excessBytes, 1, s.ports.rxCount, 0⟩)) ∨
    (∃ src level, i = .fmts src ∧ fmtsLevel src s = some level ∧
      exec i s = .next (s.quiet.driveSm (scaleOf level))) ∨
    (∃ src, i = .fmts src ∧ fmtsLevel src s = none ∧
      exec i s = .next (s.raiseFault .emptyReg (encode (.fmts src)))) ∨
    (i = .clre ∧ exec i s = .next s.quiet.clearError) := by
  cases i with
  | encf => exact .inl ⟨.rdFreq, congrArg Host.Outcome.next (State.emitFrames_eq _ _), .inl rfl⟩
  | encs => exact .inl ⟨.rdStat, congrArg Host.Outcome.next (State.emitFrames_eq _ _), .inr (.inl rfl)⟩
  | encm m => exact .inl ⟨.macroAt m, congrArg Host.Outcome.next (State.emitFrames_eq _ _), .inr (.inr ⟨m, rfl⟩)⟩
  | decf =>
    cases hp : parseFrequency s.ports with
    | ok r => exact .inr (.inl ⟨r, rfl, rfl, by simp [exec, execDecf, decfWith, hp]⟩)
    | error e => exact .inr (.inr (.inl ⟨e, rfl, rfl, by simp [exec, execDecf, decfWith, hp]⟩))
  | decs =>
    rcases Nat.lt_trichotomy s.ports.rxCount.toNat 1 with h | h | h
    · exact .inr (.inr (.inr (.inr (.inl ⟨rfl, by omega, by simp [exec, execDecs, decsWith, h]⟩))))
    · exact .inr (.inr (.inr (.inl ⟨rfl, h, by simp [exec, execDecs, decsWith, h]⟩)))
    · have h' : ¬ s.ports.rxCount.toNat < 1 := by omega
      exact .inr (.inr (.inr (.inr (.inr (.inl ⟨rfl, h, by simp only [exec, execDecs, decsWith, h', h, if_true, if_false]⟩)))))
  | fmts src =>
    cases hl : fmtsLevel src s with
    | some level =>
      exact .inr (.inr (.inr (.inr (.inr (.inr (.inl ⟨src, level, rfl, hl, by simp [exec, execFmts, hl]⟩))))))
    | none =>
      exact .inr (.inr (.inr (.inr (.inr (.inr (.inr (.inl ⟨src, rfl, hl, by simp [exec, execFmts, hl]⟩)))))))
  | clre => exact .inr (.inr (.inr (.inr (.inr (.inr (.inr (.inr ⟨rfl, rfl⟩)))))))

end Sys2Proof.Machine
end

