-- ==== Sys2Proof/Laws/PerInstr.lean ====
section
/-! SUPPORT. Per-instruction families. `TableRow`: the word of an instruction matches its row of the opcode map, and every
bit outside the row's mask is an operand bit (30_encoding.md rule R78). -/
namespace Sys2Proof.Laws.TableRow

/-- The encoding lies in the row: its masked bits are the pattern, and the pattern has no bit outside the mask. -/
def Statement (i : Instr) : Prop := encode i &&& rowMask i = rowPattern i ∧ rowPattern i &&& ~~~(rowMask i) = 0

theorem encf : Statement .encf := by unfold Statement; decide

theorem encs : Statement .encs := by unfold Statement; decide

theorem encm (m : BitVec 2) : Statement (.encm m) := by unfold Statement; decide +revert

theorem decf : Statement .decf := by unfold Statement; decide

theorem decs : Statement .decs := by unfold Statement; decide

theorem fmts (s : BitVec 1) : Statement (.fmts s) := by unfold Statement; decide +revert

theorem clre : Statement .clre := by unfold Statement; decide

end Sys2Proof.Laws.TableRow
end

