-- ==== Sys2Proof/Laws/Session.lean ====
section
/-! SUPPORT. What the actions of the host sequences can do, one lemma for each. Proofs about a query, a tick or a macro cite
these and do not unfold the step. -/
namespace Sys2Proof.Machine

/-! Running one thing after another -/

@[simp] theorem andThen_next {α β φ ρ : Type} (a : α) (f : α → Host.Outcome β φ ρ) : andThen (.next a) f = f a := rfl
@[simp] theorem andThen_fault {α β φ ρ : Type} (e : φ) (f : α → Host.Outcome β φ ρ) :
    andThen (.fault e) f = .fault e := rfl
@[simp] theorem andThen_refused {α β φ ρ : Type} (e : ρ) (f : α → Host.Outcome β φ ρ) :
    andThen (.refused e) f = .refused e := rfl

/-- Issuing an instruction to a block that is not faulted runs it, with its word on the command port. -/
theorem issue_eq (i : Instr) (b : State) (h : b.fault.code = 0) :
    issue i b = exec i { b with ports := { b.ports with cmd := encode i }, rdOut := none } := by
  have hd : decode (encode i) = .legal i := by
    cases i with
    | encm m => revert m; decide
    | fmts s => revert s; decide
    | _ => rfl
  have hf : ¬ (b.presentNext (encode i)).faulted = true := by simp [State.faulted, h]
  simp only [issue, step, serveHost, State.presentNext, perform, runWord] at hf ⊢
  simp only [State.faulted, h, hd, State.drivePorts]
  rfl

/-! Host reads -/

/-- Nothing a host reads is the read port of the model. -/
@[simp] theorem State.readValue_rdOut (b : State) (v : Option ReadValue) (r : ReadPort) :
    ({ b with rdOut := v } : State).readValue r = b.readValue r := by cases r <;> rfl

/-- A read of a port that has a value gives it and changes nothing but the read port. -/
theorem readOut_eq (r : ReadPort) (b : State) (v : ReadValue) (h : b.readValue r = some v) :
    readOut r b = .next (some v, { b with rdOut := some v }) := by
  have hs : ({ b with pending := b.pending } : State).hostRead r = { b with rdOut := some v } := by
    simp [State.hostRead, h]
  simp only [readOut, step, serveHost, perform]
  exact congrArg (fun s : State => Host.Outcome.next (s.rdOut, s)) hs

/-- Reads of ports that all have a value give the values in order and change nothing but the read port. -/
theorem readAll_eq (rs : List ReadPort) (b : State) (h : ∀ r ∈ rs, b.readValue r ≠ none) :
    ∃ v, readAll rs b = .next (rs.map fun r => (r, b.readValue r), { b with rdOut := v }) := by
  induction rs generalizing b with
  | nil => exact ⟨b.rdOut, rfl⟩
  | cons r rs ih =>
    obtain ⟨a, ha⟩ := Option.ne_none_iff_exists'.1 (h r (List.mem_cons_self ..))
    obtain ⟨v, hv⟩ := ih { b with rdOut := some a } fun q hq => by simpa using h q (List.mem_cons_of_mem _ hq)
    exact ⟨v, by simp [readAll, readOut_eq r b a ha, hv, ha]⟩

/-- Reading a held register: the `valid` bit, and the fields if it is 1. -/
theorem readHeld_eq (valid : ReadPort) (fields : List ReadPort) (b : State) (on : Bool)
    (h : b.readValue valid = some (.bit on)) (hf : on = true → ∀ r ∈ fields, b.readValue r ≠ none) :
    ∃ v, readHeld valid fields b =
      .next ((valid :: if on then fields else []).map fun r => (r, b.readValue r), { b with rdOut := v }) := by
  cases on with
  | false => exact ⟨_, by simp [readHeld, readOut_eq valid b _ h, h]; rfl⟩
  | true =>
    obtain ⟨v, hv⟩ := readAll_eq fields { b with rdOut := some (.bit true) } fun r hr => by simpa using hf rfl r hr
    exact ⟨v, by simp [readHeld, readOut_eq valid b _ h, hv, h]⟩

/-- The ports `readRegisters` reads in a state: each `valid` bit, the fields of each register that holds a value, `FAULT`. -/
def portsRead (b : State) : List ReadPort :=
  (.freqValid :: if b.freqReg.valid then [.freqHz, .freqDisp, .freqMode] else []) ++
  (.statusValid :: if b.statusReg.valid then [.statusWord] else []) ++
  (.classValid :: if b.classReg.valid then [.classRegion, .classBand, .classNote] else []) ++ [.fault]

/-- Every port `readRegisters` reads has a value. -/
theorem portsRead_ne_none (b : State) : ∀ r ∈ portsRead b, b.readValue r ≠ none := by
  intro r hr
  cases hf : b.freqReg <;> cases hs : b.statusReg <;> cases hc : b.classReg <;>
    simp [portsRead, hf, hs, hc] at hr <;> (repeat' first | subst hr | rcases hr with rfl | hr) <;>
    simp [State.readValue, hf, hs, hc]

/-- `readRegisters` gives every port of `portsRead` with its value, and changes nothing but the read port. -/
theorem readRegisters_eq (b : State) :
    ∃ v, readRegisters b = .next ((portsRead b).map fun r => (r, b.readValue r), { b with rdOut := v }) := by
  have hall := portsRead_ne_none b
  obtain ⟨v1, h1⟩ := readHeld_eq .freqValid [.freqHz, .freqDisp, .freqMode] b b.freqReg.valid rfl
    fun hv r hr => hall r (by simp only [portsRead, hv]; simp at hr ⊢; tauto)
  obtain ⟨v2, h2⟩ := readHeld_eq .statusValid [.statusWord] { b with rdOut := v1 } b.statusReg.valid rfl
    fun hv r hr => by simpa using hall r (by simp only [portsRead, hv]; simp at hr ⊢; tauto)
  obtain ⟨v3, h3⟩ := readHeld_eq .classValid [.classRegion, .classBand, .classNote] { b with rdOut := v2 } b.classReg.valid
    rfl fun hv r hr => by simpa using hall r (by simp only [portsRead, hv]; simp at hr ⊢; tauto)
  obtain ⟨v4, h4⟩ := readAll_eq [.fault] { b with rdOut := v3 } (by simp [State.readValue])
  exact ⟨v4, by simp [readRegisters, h1, h2, h3, h4, portsRead]⟩

/-- `takeError` gives what `LAST_ERR` held and leaves it 0x0000; no register and no history changes. -/
theorem takeError_eq (b : State) (h : b.fault.code = 0) :
    ∃ b', takeError b = .next (some (.lastErr b.lastErr), b') ∧ b'.lastErr = 0x0000 ∧ b'.held = b.held ∧
      b'.fault = b.fault ∧ b'.txh = b.txh ∧ b'.pending = b.pending := by
  have hr := readOut_eq .lastErr b _ rfl
  by_cases he : b.lastErr = 0x0000
  · refine ⟨{ b with rdOut := some (.lastErr b.lastErr) }, ?_, he, rfl, rfl, rfl, rfl⟩
    rw [takeError, hr, andThen_next, if_pos (by rw [he])]
  · refine ⟨{ b with ports := { b.ports with cmd := encode .clre }, rdOut := none }.quiet.clearError, ?_, rfl, rfl, rfl,
      rfl, rfl⟩
    rw [takeError, hr, andThen_next, if_neg (by simpa using he)]
    exact congrArg (andThen · _) (issue_eq .clre { b with rdOut := some (.lastErr b.lastErr) } h)

/-! The transport -/

/-- A read that finds enough bytes in the input buffer does not wait. -/
theorem Transport.await_of_available (n fuel : Nat) (t : Transport) (h : n ≤ t.bytesAvailable) :
    Transport.await n fuel t = t := by
  cases fuel with
  | zero => rfl
  | succ fuel => rw [Transport.await, if_pos h]

/-- A write answers the count of its bytes and adds them to what was written, at the time of the write. -/
theorem Transport.write_eq (t : Transport) (bytes : List Byte) :
    t.write bytes = (bytes.length, { t with written := t.written ++ [(t.clock, bytes)] }) := rfl

/-- After waiting for a time the clock shows it or a later one, and the block is as it was. -/
theorem Session.waitUntil_spec (time : Nat) (x : Session) :
    time ≤ (x.waitUntil time).link.clock ∧ (x.waitUntil time).block = x.block := by
  refine ⟨?_, rfl⟩
  simp only [Session.waitUntil, Transport.sleep, Transport.arrive]
  omega

end Sys2Proof.Machine
end

