-- ==== Sys2Proof/Tests/Slice0.lean ====
section
/-! SUPPORT. The model's own tests. Expected results come from 95_test_vectors.md (named V-…, E…, P…) and from the tables of
the section files; each hypothesis of a statement of Certificates/Slice0/Obligations.lean has a witness here. -/
namespace Sys2Proof.Machine.Tests

/-- The state a test looks at. -/
def stateOf {φ ρ : Type} (o : Host.Outcome State φ ρ) : State :=
  match o with
  | .next s => s
  | .fault _ | .refused _ => State.reset

/-- The outcome is a next state. -/
def runs {σ φ ρ : Type} : Host.Outcome σ φ ρ → Bool
  | .next _ => true
  | .fault _ | .refused _ => false

/-- The reset state with a response on the ports. -/
def withRx (rx : Vector Byte 5) (n : BitVec 3) : State := { State.reset with ports := ⟨0x00, rx, n, 0⟩ }

/-- The reset state with a level on the ports. -/
def withLevel (l : BitVec 5) : State := { State.reset with ports := { State.reset.ports with lvl := l } }

/-- The reset state with one action of the host to come. -/
def awaiting (a : HostAction) : State := { State.reset with pending := [a] }

/-- Ports that carry a command word and nothing else. -/
def word (w : Byte) : InPorts := { State.reset.ports with cmd := w }

/-- A string of a vector. -/
def textOf (s : String) : Text := ascii s.toList

/-- A state with every held register written, an error standing and a history: after V-F1, V-S1 and V-F25. -/
def busy : State :=
  { State.reset with
    freqReg := .holds ⟨1450000, #v[0x20, 0x20, 0x31, 0x34, 0x35, 0x30, 0x30, 0x30, 0x30], 0x01⟩
    statusReg := .holds (decodeStatus Config.installed.cfg 0x96)
    classReg := .holds (classificationOf Config.installed.cfg
      ⟨1450000, #v[0x20, 0x20, 0x31, 0x34, 0x35, 0x30, 0x30, 0x30, 0x30], 0x01⟩)
    lastErr := 0xA50A
    txh := [.gap 500] }

/-! Well-formedness: the reference configuration passes, and each check refuses a configuration that breaks it (R5, R252) -/

theorem test_reference_configuration_wf : Config.reference.wf = true := by decide
theorem test_wf_refuses_empty_macro :
    { Config.reference with macros := #v[[], [], [], []] : Config }.macroLengthsOk = false := by decide
theorem test_wf_refuses_six_frame_macro :
    { Config.reference with
      macros := Vector.replicate 4 (List.replicate 6 (Vector.replicate 5 0)) : Config }.macroLengthsOk = false := by
  decide
theorem test_wf_refuses_equal_names :
    { Config.reference with macroNames := Vector.replicate 4 [0x61] : Config }.macroNamesDistinct = false := by decide
theorem test_wf_refuses_unbound_names :
    { Config.reference with macroNames := #v[[0x61], [0x62], [0x63], [0x64]] : Config }.macroNamesBound = false := by
  decide
theorem test_wf_refuses_missing_label :
    { Config.reference with modeLabels := [(0x01, [0x61])] : Config }.modeLabelsTotal = false := by decide
theorem test_wf_refuses_wrong_upper_sideband :
    { Config.reference with modeLabels := [(0x01, [0x61])] : Config }.upperSidebandOk = false := by decide
theorem test_wf_refuses_mark_as_alternate_glyph :
    { Config.reference with glyphAlt := 0x7C : Config }.glyphAltOk = false := by decide
theorem test_wf_refuses_dot_as_alternate_glyph :
    { Config.reference with glyphAlt := 0x2E : Config }.wf = false := by decide

/-! Decoding: words written out from R77 and R78, and the reserved words of section 2.7 -/

theorem test_decode_encf : decode 0b00010000#8 = .legal .encf := by decide
theorem test_decode_encs : decode 0b00100000#8 = .legal .encs := by decide
theorem test_decode_encm_2 : decode 0b00110010#8 = .legal (.encm 2) := by decide
theorem test_decode_decf : decode 0b01000000#8 = .legal .decf := by decide
theorem test_decode_decs : decode 0b01010000#8 = .legal .decs := by decide
theorem test_decode_fmts_1 : decode 0b01100001#8 = .legal (.fmts 1) := by decide
theorem test_decode_clre : decode 0b01110000#8 = .legal .clre := by decide
theorem test_decode_illegal_words :
    ([0x00, 0x0F, 0x80, 0xA5, 0xFF] : List Byte).map decode = List.replicate 5 (.illegal .unusedOp) ∧
      ([0x11, 0x1F, 0x21, 0x34, 0x35, 0x3F, 0x41, 0x51, 0x62, 0x63, 0x6F, 0x71] : List Byte).map decode =
        List.replicate 12 (.illegal .reservedArg) := by decide
theorem test_table_word : decodeTableWord 8 0x33 = some (.encm 3) ∧ decodeTableWord 8 0x35 = none := by decide

/-! The encoder, with REFCFG (section 2.5) -/

theorem test_V_E1 : stateOf (emitEntry Config.reference .rdFreq State.reset) =
    { State.reset with txh := [.emit #v[0, 0, 0, 0, 0x03]], txOut := [.emit #v[0, 0, 0, 0, 0x03]] } := by decide
theorem test_V_E2 : (stateOf (emitEntry Config.reference .rdStat State.reset)).txh = [.emit #v[0, 0, 0, 0, 0xE7]] := by
  decide
theorem test_V_E3 : (stateOf (emitEntry Config.reference (.macroAt 0) State.reset)).txh =
    [.emit #v[0xA0, 0, 0, 0, 1], .gap 500, .emit #v[0xA1, 0, 0, 0, 2]] := by decide
theorem test_V_E6 : (stateOf (emitEntry Config.reference (.macroAt 3) State.reset)).txh =
    [.emit #v[0xD0, 0, 0, 0, 5]] := by decide

/-! DECF (sections 2.1 and 2.2) -/

theorem test_V_F1 : (stateOf (exec .decf (withRx #v[0x00, 0x14, 0x50, 0x00, 0x01] 5))).freqReg =
    .holds ⟨0x00162010, #v[0x20, 0x20, 0x31, 0x34, 0x35, 0x30, 0x30, 0x30, 0x30], 0x01⟩ := by decide
theorem test_V_F28 : (stateOf (exec .decf (withRx #v[0x0B, 0x00, 0x00, 0x0C, 0x01] 5))).lastErr = 0xA10B := by decide

/-! DECS (section 2.3), with the identity table and with V-S30's -/

theorem test_V_S4 : (stateOf (decsWith Config.reference (withRx #v[0xB6, 0, 0, 0, 0] 1))).statusReg = .holds 0x86 := by
  decide
theorem test_V_S30 : (stateOf (decsWith
    { Config.reference with smeterExt := Vector.ofFn fun r => BitVec.ofNat 5 (2 * r + 1) }
    (withRx #v[0x96, 0, 0, 0, 0] 1))).statusReg = .holds 0xAD := by decide

/-! FMTS (section 2.4) -/

theorem test_V_M7 : renderSm Config.reference (scaleOf 19) = textOf "S9+00dB|||||||||||||||||||............" := by
  decide +kernel
theorem test_V_M20 : (stateOf (exec (.fmts 1) State.reset)).fault = ⟨2, 0x61⟩ := by decide

/-! CLRE (section 2.6) -/

theorem test_V_C1 : (stateOf (exec .clre { State.reset with lastErr := 0xA50A })).lastErr = 0x0000 := by decide

/-! The step, reset and host reads (section 2.7) -/

theorem test_fetch_word_runs : ∀ i ∈ [Instr.encf, .encs, .encm 3, .decf, .decs, .fmts 0, .clre],
    runs (step (State.reset.withFetchWord 8 (encode i).toNat)) = true := by
  decide
theorem test_illegal_word : step (awaiting (.present (word 0x35))) =
    .next { State.reset with ports := word 0x35, fault := ⟨1, 0x35⟩ } := rfl
theorem test_V_X1 : (stateOf (step (awaiting (.read .freqHz)))).fault = ⟨2, 0x00⟩ := by decide
theorem test_V_X2 : (stateOf (step (awaiting (.read .lastErr)))).rdOut = some (.lastErr 0x0000) := by decide
theorem test_V_X4 : step { busy with fault := ⟨2, 0x61⟩, pending := [.reset] } = .next State.reset := rfl
theorem test_assemble : assemble Config.reference ⟨textOf "ENCM", some (.name (textOf "gb3nt"))⟩ = some (.encm 1) ∧
    assemble Config.reference ⟨textOf "ENCM", some (.number 4)⟩ = none ∧
    assemble Config.reference ⟨textOf "FMTS", none⟩ = none ∧
    (disassemble (.fmts 1)).text = textOf "FMTS 1" := by decide +kernel

/-! Witnesses: states and operands that meet the hypotheses of the statements -/

theorem witness_IllegalWordFaultsAndChangesNothing :
    (awaiting (.present (word 0x0F))).pending = [.present (word 0x0F)] ∧ State.reset.fault.code = 0 ∧
      IllegalWord 0x0F ∧ IllegalWord 0x80 ∧ IllegalWord 0x11 ∧ IllegalWord 0x34 ∧ IllegalWord 0x62 ∧
      ¬ IllegalWord 0x33 ∧ ¬ IllegalWord 0x61 := by
  refine ⟨rfl, rfl, ?_, ?_, ?_, ?_, ?_, ?_, ?_⟩ <;> decide
theorem witness_OpcodeMapIsTheCompleteCommandSet :
    (0x34 : Byte) ∉ ([0x10, 0x20, 0x30, 0x31, 0x32, 0x33, 0x40, 0x50, 0x60, 0x61, 0x70] : List Byte) := by decide
theorem witness_StepRunsTheDecodedInstruction :
    (awaiting (.present (word 0x61))).pending = .present (word 0x61) :: [] ∧ (awaiting .reset).fault.code = 0 ∧
      decode (word 0x61).cmd = .legal (.fmts 1) := by decide
theorem witness_FaultedBlockHasNoStep :
    ∃ s : State, s.pending = .present (word 0x10) :: [] ∧ s.fault.code ≠ 0 :=
  ⟨{ awaiting (.present (word 0x10)) with fault := ⟨2, 0x61⟩ }, rfl, by decide⟩
theorem witness_FaultKeepsItsValueUntilReset :
    ∃ s t : State, s.fault.code ≠ 0 ∧ s.NotReset ∧ step s = .next t :=
  ⟨{ busy with fault := ⟨2, 0x61⟩, pending := [.read .fault] }, _, by decide, by decide, rfl⟩
theorem witness_IdleBlockHoldsItsState : busy.pending = [] := rfl
theorem witness_PlatformResetRestoresResetState :
    ({ busy with pending := [.reset, .read .fault] } : State).pending = .reset :: [.read .fault] := rfl
theorem witness_EncoderOutputDependsOnlyOnTheOperand :
    (Instr.encm 3 = .encf ∨ Instr.encm 3 = .encs ∨ ∃ m, Instr.encm 3 = .encm m) := .inr (.inr ⟨3, rfl⟩)
/-- For DecfCommitsTheLeadingSpaceReading (k = 0 and k = 8) and both cases of DecfCommitsBothRegistersOrNeither. -/
theorem witness_DecfAccepted :
    AcceptedFrequency (withRx #v[0x99, 0x99, 0x99, 0x99, 0x88] 5).ports ∧
      AcceptedFrequency (withRx #v[0x00, 0x00, 0x00, 0x00, 0x00] 5).ports ∧
      ¬ AcceptedFrequency (withRx #v[0x00, 0x00, 0x00, 0x0A, 0x00] 5).ports := by decide
theorem witness_DecfByteCountErrors :
    (withRx #v[0, 0, 0, 0, 0] 4).ports.rxCount.toNat < 5 ∧ 5 < (withRx #v[0, 0, 0, 0, 0] 6).ports.rxCount.toNat := by
  decide
theorem witness_DecfReportsTheLowestBadDigit :
    let s := withRx #v[0x00, 0x00, 0x00, 0x0F, 0x01] 5
    s.ports.rxCount = 5 ∧ (responseDigits s.ports.rx).toList[7]? = some 0xF ∧ 9 < (0xF : Nibble).toNat ∧
      ∀ q e, q < 7 → (responseDigits s.ports.rx).toList[q]? = some e → GoodDigit e := by
  refine ⟨rfl, rfl, by decide, fun q e hq he => ?_⟩
  have h : ∀ q < 7, ∀ e : Nibble,
      (responseDigits (withRx #v[0x00, 0x00, 0x00, 0x0F, 0x01] 5).ports.rx).toList[q]? = some e → GoodDigit e := by decide
  exact h q hq e he
theorem witness_DecfLooksTheModeUp :
    let s := withRx #v[0x00, 0x14, 0x50, 0x00, 0x99] 5
    let s' := withRx #v[0x00, 0x14, 0x50, 0x00, 0x88] 5
    s.ports.rxCount = 5 ∧ (∀ d ∈ (responseDigits s.ports.rx).toList, GoodDigit d) ∧ s.ports.rx[4] ∉ modeSet ∧
      s'.ports.rxCount = 5 ∧ (∀ d ∈ (responseDigits s'.ports.rx).toList, GoodDigit d) ∧ s'.ports.rx[4] ∈ modeSet := by
  decide
theorem witness_DecfErrorPriority :
    let s := withRx #v[0xA0, 0x00, 0x00, 0x00, 0x99] 5
    s.ports.rxCount = 5 ∧ (∃ d ∈ (responseDigits s.ports.rx).toList, ¬ GoodDigit d) ∧ s.ports.rx[4] ∉ modeSet := by
  decide
theorem witness_DecfRoundTripsSyntheticResponses :
    999999990 % 10 = 0 ∧ (0x88 : Byte) ∈ modeSet ∧
      synthResponse 999999990 0x88 = #v[0x99, 0x99, 0x99, 0x99, 0x88] ∧
      synthResponse 10 0x00 = #v[0x00, 0x00, 0x00, 0x01, 0x00] := by decide
theorem witness_DecfIsInjectiveOnAcceptedResponses :
    let s := withRx #v[0x00, 0x14, 0x50, 0x00, 0x01] 5
    ∃ t r, AcceptedFrequency s.ports ∧ exec .decf s = .next t ∧ t.freqReg = .holds r :=
  ⟨_, _, by decide, rfl, rfl⟩
/-- For DecsCommitsTheClosedFormWord, DecsFlagPolarity and the success case of DecsCommitsOrKeepsStatus. -/
theorem witness_DecsCommitsTheClosedFormWord :
    (withRx #v[0x96, 0, 0, 0, 0] 1).ports.rxCount = 1 ∧ Config.reference.smeterExt = identityExt := by decide
theorem witness_DecsByteCountErrors :
    (withRx #v[0, 0, 0, 0, 0] 0).ports.rxCount = 0 ∧ 2 ≤ (withRx #v[0, 0, 0, 0, 0] 2).ports.rxCount.toNat ∧
      2 ≤ (withRx #v[0, 0, 0, 0, 0] 7).ports.rxCount.toNat ∧ (withRx #v[0, 0, 0, 0, 0] 7).ports.rxCount ≠ 1 := by decide
theorem witness_DecsIgnoresBitFour :
    let s := withRx #v[0x0F, 0, 0, 0, 0] 1
    let s' := withRx #v[0x1F, 0, 0, 0, 0] 1
    s.ports.rxCount = 1 ∧ s'.ports.rxCount = 1 ∧ s.ports.rx[0] ^^^ s'.ports.rx[0] = 0x10 := by decide
theorem witness_FmtsDrivesTheRecordOfItsLevel :
    (∃ w, busy.statusReg = .holds w) ∧ State.reset.statusReg = .empty := ⟨⟨_, rfl⟩, rfl⟩
theorem witness_FmtsFrame : busy.statusReg ≠ .empty := nofun
theorem witness_LastErrorWritePolicy :
    ¬ AcceptedFrequency (withRx #v[0x00, 0x14, 0x50, 0x00, 0x01] 4).ports ∧
      AcceptedFrequency (withRx #v[0x00, 0x14, 0x50, 0x00, 0x01] 5).ports ∧
      (withRx #v[0, 0, 0, 0, 0] 0).ports.rxCount ≠ 1 ∧ (withRx #v[0, 0, 0, 0, 0] 1).ports.rxCount = 1 ∧
      Instr.encf ≠ .decf ∧ Instr.encf ≠ .decs ∧ Instr.encf ≠ .clre := by decide
/-- For EachRegisterHasItsOnlyWriters, LastErrorInfluencesNoInstruction and InstructionsAreIdempotentOnHeldRegisters: an
instruction that answers a next state from a state with every register in use. -/
theorem witness_EachRegisterHasItsOnlyWriters : ∃ t, exec .clre busy = .next t ∧ t.lastErr ≠ busy.lastErr :=
  ⟨_, rfl, by decide⟩
theorem witness_FreqRegStaysLegal : ∃ r, busy.freqReg = .holds r ∧ r.Legal ∧ ∃ t, exec .clre busy = .next t :=
  ⟨_, rfl, ⟨by decide, by decide, by decide, by decide⟩, _, rfl⟩
theorem witness_EveryStepKeepsTheInvariant :
    let s := { busy with pending := [.present (word 0x70)] }
    s.Inv ∧ ∃ t, step s = .next t ∧ t.lastErr = 0x0000 := by
  refine ⟨⟨?_, ?_, rfl, ?_, .inl rfl, List.nil_suffix, nofun⟩, _, rfl, rfl⟩
  · intro r h
    cases h
    exact ⟨by decide, by decide, by decide, by decide⟩
  · intro w h
    cases h
    refine ⟨6, ?_⟩
    have level_of : ∀ e : BitVec 5, statusLevel (packStatus 1 0 1 e) = e := by decide
    exact level_of _
  · exact .inr (.inr (.inr (.inr (.inr (.inl ⟨5, 10, by decide, by decide, by decide, rfl⟩)))))
/-- For TransmitHistoryIsAppendOnly and OnlyResetEmptiesAHeldRegister. -/
theorem witness_StepsThatAreNoReset :
    let s := { busy with pending := [.present (word 0x10)] }
    s.NotReset ∧ (∃ t, step s = .next t) ∧ s.freqReg.valid = true ∧ s.statusReg.valid = true ∧
      s.classReg.valid = true := ⟨by decide, ⟨_, rfl⟩, rfl, rfl, rfl⟩
theorem witness_BytesPastTheCountAreNotRead :
    let s := withRx #v[0x96, 1, 2, 3, 4] 1
    (∀ k : Fin 5, k.val < s.ports.rxCount.toNat →
      (#v[0x96, 9, 9, 9, 9] : Vector Byte 5).get k = s.ports.rx.get k) ∧ ∃ t, exec .decs s = .next t :=
  ⟨by decide, _, rfl⟩
theorem witness_HostReadsOfHeldRegisters :
    ({ busy with pending := [.read .classNote] } : State).pending = .read .classNote :: [] ∧
      (∃ v, busy.freqReg = .holds v) ∧ (∃ w, busy.statusReg = .holds w) ∧ (∃ c, busy.classReg = .holds c) ∧
      State.reset.fault.code = 0 ∧ State.reset.freqReg = .empty ∧ State.reset.statusReg = .empty ∧
      State.reset.classReg = .empty ∧ ({ State.reset with fault := ⟨1, 0x35⟩ } : State).fault.code ≠ 0 :=
  ⟨rfl, ⟨_, rfl⟩, ⟨_, rfl⟩, ⟨_, rfl⟩, rfl, rfl, rfl, rfl, by decide⟩
theorem witness_AlwaysReadableRegisters :
    (awaiting (.read .classValid)).pending = .read .classValid :: [] := rfl

/-- A session at start-up, with a stale byte in the input buffer and nothing to come (V-H1). -/
def stale : Session := ⟨State.reset, ⟨0, [0x14], [], []⟩⟩

/-- R236, R194: a write answers its byte count; a second gap can be lengthened by more than the first, and a third by nothing. -/
theorem test_write_answers_its_count : (stale.link.write [0x00, 0x14, 0x50, 0x00, 0x01]).1 = 5 := by decide
theorem test_carryOut_waits_differ :
    (carryOut [0, 20] [.gap 500, .gap 500, .gap 500] stale.link).clock = 1520 := by decide
/-- R197, R254: the polling loop reads no field of an empty register, and clears the error it surfaces. -/
theorem test_empty_registers_are_not_read : ∃ b, readRegisters stale.block =
    .next ([(.freqValid, some (.bit false)), (.statusValid, some (.bit false)), (.classValid, some (.bit false)),
      (.fault, some (.fault ⟨0, 0x00⟩))], b) := ⟨_, rfl⟩
theorem test_takeError_clears : ∃ b, takeError busy = .next (some (.lastErr 0xA50A), b) ∧ b.lastErr = 0x0000 :=
  ⟨_, rfl, rfl⟩

/-- For FrequencyQueryTimesOut, StatusQueryDecodesAStaleByte, MacroFramesAreWrittenInOrderAndApart,
PollingTickReportsAndClearsTheError and PollingLoopRepeatsTheTwoQueries. -/
theorem witness_HostSequences :
    stale.block.fault.code = 0 ∧ stale.link.coming = [] ∧ stale.link.inBuf = 0x14 :: [] := by decide
theorem witness_UnknownMacroNameIsRefused :
    Config.installed.cfg.macroNames.toList.flatten ++ [0x21] ∉ Config.installed.cfg.macroNames.toList := by
  intro h
  have := (List.sublist_flatten_of_mem h).length_le
  simp at this

end Sys2Proof.Machine.Tests
end

section
/-! The reset value of each register and of the transmit history, by 10_state.md rule R38. -/
namespace Sys2Proof.Machine

@[simp] theorem State.reset_freqReg : State.reset.freqReg = .empty := rfl
@[simp] theorem State.reset_statusReg : State.reset.statusReg = .empty := rfl
@[simp] theorem State.reset_classReg : State.reset.classReg = .empty := rfl
@[simp] theorem State.reset_lastErr : State.reset.lastErr = 0x0000 := rfl
@[simp] theorem State.reset_fault : State.reset.fault = ⟨0, 0x00⟩ := rfl
@[simp] theorem State.reset_txh : State.reset.txh = [] := rfl

/-- Settles O9, one row of R38's table after another. -/
theorem resetGivesTheTabulatedValues : Obligations.ResetGivesTheTabulatedValues :=
  ⟨State.reset_freqReg, State.reset_statusReg, State.reset_classReg, State.reset_lastErr, State.reset_fault,
    State.reset_txh⟩

end Sys2Proof.Machine
end

section
/-! The command frame encoder, by 40_frame_encoder.md: what emitting a ROM entry does to the whole state, and that no entry
of a well-formed configuration is without events. -/
namespace Sys2Proof.Machine

/-- Emitting a ROM entry adds the entry's events to `TXH`, and the output ports carry those events only (R100, R101). -/
theorem emitEntry_eq (cfg : Config) (id : RomId) (s : State) :
    emitEntry cfg id s =
      .next { s with txh := s.txh ++ macroEvents (romRead cfg id), txOut := macroEvents (romRead cfg id), smOut := none } :=
  congrArg Host.Outcome.next (State.emitFrames_eq s.quiet (romRead cfg id))

/-- The frame count of a macro of a well-formed configuration (R5, R51). -/
theorem macro_length_of_wf (c : WfConfig) (m : BitVec 2) :
    1 ≤ (c.cfg.macros.get m.toFin).length ∧ (c.cfg.macros.get m.toFin).length ≤ 5 := by
  have hlen : c.cfg.macroLengthsOk = true := by
    have hwf := c.ok
    simp only [Config.wf, Bool.and_eq_true] at hwf
    obtain ⟨⟨⟨⟨⟨hlen, -⟩, -⟩, -⟩, -⟩, -⟩ := hwf
    exact hlen
  have hmem : c.cfg.macros.get m.toFin ∈ c.cfg.macros.toList :=
    Vector.mem_toList_iff.mpr (Vector.getElem_mem m.toFin.isLt)
  exact of_decide_eq_true (List.all_eq_true.mp hlen _ hmem)

theorem romRead_ne_nil (c : WfConfig) (id : RomId) : romRead c.cfg id ≠ [] := by
  cases id with
  | rdFreq => exact List.cons_ne_nil _ _
  | rdStat => exact List.cons_ne_nil _ _
  | macroAt m => exact List.ne_nil_of_length_pos (macro_length_of_wf c m).1

theorem macroEvents_ne_nil {fs : List Frame} (h : fs ≠ []) : macroEvents fs ≠ [] := by
  obtain ⟨f, rest, rfl⟩ := List.exists_cons_of_ne_nil h
  rw [macroEvents, List.map_cons, intersperse_cons_eq]
  exact List.cons_ne_nil _ _

/-- The ROM entry of an encoder instruction is the instruction's own: it does not vary with the state (R102 to R104). -/
theorem exists_exec_eq_emitEntry {i : Instr} (h : i = .encf ∨ i = .encs ∨ ∃ m, i = .encm m) :
    ∃ id, ∀ s, exec i s = emitEntry Config.installed.cfg id s := by
  obtain rfl | rfl | ⟨m, rfl⟩ := h
  · exact ⟨.rdFreq, fun _ => rfl⟩
  · exact ⟨.rdStat, fun _ => rfl⟩
  · exact ⟨.macroAt m, fun _ => rfl⟩

/-- Settles O13: the ROM entry of ENCM m is `MACRO[m]`. -/
theorem encmEmitsTheMacroWithGaps : Obligations.EncmEmitsTheMacroWithGaps :=
  fun m s => emitEntry_eq Config.installed.cfg (.macroAt m) s

/-- Settles O15: the list is the events of the instruction's ROM entry, which holds a frame because the installed
configuration is well-formed. -/
theorem encoderOutputDependsOnlyOnTheOperand : Obligations.EncoderOutputDependsOnlyOnTheOperand := by
  intro i hi
  obtain ⟨id, hexec⟩ := exists_exec_eq_emitEntry hi
  refine ⟨macroEvents (romRead Config.installed.cfg id), macroEvents_ne_nil (romRead_ne_nil Config.installed id), ?_⟩
  intro s
  rw [hexec, emitEntry_eq]

/-- Settles O11: the ROM entry of ENCF is the one frame `FRAME_RDFREQ`, so no gap is among its events. -/
theorem encfEmitsTheReadFrequencyFrame : Obligations.EncfEmitsTheReadFrequencyFrame :=
  emitEntry_eq Config.installed.cfg .rdFreq

/-- Settles O12: the ROM entry of ENCS is the one frame `FRAME_RDSTAT`, so no gap is among its events. -/
theorem encsEmitsTheReadStatusFrame : Obligations.EncsEmitsTheReadStatusFrame :=
  emitEntry_eq Config.installed.cfg .rdStat

end Sys2Proof.Machine
end

section
/-! The word a soft error leaves in `LAST_ERR`, by 60_exceptions.md rule R222 and the fields of 10_state.md rule R29. -/
namespace Sys2Proof.Machine

/-- The left part of two appended bit vectors counts in units of the right part's range. -/
theorem toNat_append_eq_add {m n : Nat} (x : BitVec m) (y : BitVec n) :
    (x ++ y).toNat = x.toNat * 2 ^ n + y.toNat := by
  rw [BitVec.toNat_append, ← Nat.shiftLeft_add_eq_or_of_lt y.isLt, Nat.shiftLeft_eq]

theorem SoftError.toNat_word (e : SoftError) :
    e.word.toNat = 0x4000 * e.kind.code.toNat + 0x1000 * e.cause.code.toNat + 0x800 * e.src.toNat +
      0x100 * e.aux.toNat + e.value.toNat := by
  simp only [SoftError.word, toNat_append_eq_add]
  omega

@[simp] theorem lastErrKind_word (e : SoftError) : lastErrKind e.word = e.kind.code := by
  apply BitVec.eq_of_toNat_eq
  rw [lastErrKind, BitVec.extractLsb'_toNat, SoftError.toNat_word, Nat.shiftRight_eq_div_pow]
  omega

@[simp] theorem lastErrCause_word (e : SoftError) : lastErrCause e.word = e.cause.code := by
  apply BitVec.eq_of_toNat_eq
  rw [lastErrCause, BitVec.extractLsb'_toNat, SoftError.toNat_word, Nat.shiftRight_eq_div_pow]
  omega

@[simp] theorem lastErrAux_word (e : SoftError) : lastErrAux e.word = e.aux := by
  apply BitVec.eq_of_toNat_eq
  rw [lastErrAux, BitVec.extractLsb'_toNat, SoftError.toNat_word, Nat.shiftRight_eq_div_pow]
  omega

end Sys2Proof.Machine
end

section
/-! Decimal digit strings: their value, their first bad digit and their display (41_frequency_decoder.md rules R122,
R123, R125, R129). -/
namespace Sys2Proof.Machine

/-! The value -/

/-- The value is Mathlib's base-10 value of the digits, whose least significant digit is first. -/
theorem decimalValue_eq_ofDigits (ds : List Nibble) :
    decimalValue ds = Nat.ofDigits 10 (ds.map BitVec.toNat).reverse := by
  simp [decimalValue, Nat.ofDigits_eq_foldr, List.foldl_map, Nat.add_comm]

/-- Good digits are digits of base 10, in the order `Nat.ofDigits` takes them. -/
theorem lt_ten_of_mem_reverse_map {ds : List Nibble} (h : ∀ d ∈ ds, GoodDigit d) :
    ∀ n ∈ (ds.map BitVec.toNat).reverse, n < 10 := by
  intro n hn
  obtain ⟨d, hd, rfl⟩ := List.mem_map.mp (List.mem_reverse.mp hn)
  exact Nat.lt_succ_of_le (h d hd)

theorem decimalValue_lt {ds : List Nibble} (h : ∀ d ∈ ds, GoodDigit d) : decimalValue ds < 10 ^ ds.length := by
  rw [decimalValue_eq_ofDigits]
  simpa using Nat.ofDigits_lt_base_pow_length (by decide) (lt_ten_of_mem_reverse_map h)

theorem eq_of_decimalValue_eq {ds es : List Nibble} (hd : ∀ d ∈ ds, GoodDigit d) (he : ∀ e ∈ es, GoodDigit e)
    (hlen : ds.length = es.length) (h : decimalValue ds = decimalValue es) : ds = es := by
  rw [decimalValue_eq_ofDigits, decimalValue_eq_ofDigits] at h
  have hrev := Nat.ofDigits_inj_of_len_eq (by decide) (by simpa using hlen) (lt_ten_of_mem_reverse_map hd)
    (lt_ten_of_mem_reverse_map he) h
  exact List.map_injective_iff.mpr (fun _ _ => BitVec.eq_of_toNat_eq) (List.reverse_injective hrev)

/-- Leading zeros do not count. -/
theorem decimalValue_drop_leadingZeros (ds : List Nibble) :
    decimalValue (ds.drop (leadingZeros ds)) = decimalValue ds := by
  induction ds with
  | nil => rfl
  | cons d ds ih =>
    by_cases hd : d = 0#4
    · subst hd
      simpa [leadingZeros, decimalValue] using ih
    · simp [leadingZeros, hd]

/-! The first bad digit -/

/-- A bad digit with only good ones before it is the one found. -/
theorem firstBadDigit_eq_some {ds : Vector Nibble 8} {p : Nat} {d : Nibble} (hp : ds.toList[p]? = some d)
    (hd : 9 < d.toNat) (hbefore : ∀ q e, q < p → ds.toList[q]? = some e → GoodDigit e) :
    firstBadDigit ds = some (p, d) := by
  cases hfound : firstBadDigit ds with
  | none =>
    have hgood := (firstBadDigitFrom_none_iff 0 ds.toList).mp hfound d (List.mem_of_getElem? hp)
    exact absurd hgood (Nat.not_le_of_lt hd)
  | some found =>
    obtain ⟨q, e⟩ := found
    obtain ⟨k, rfl, hk, he, hfirst⟩ := firstBadDigitFrom_some 0 ds.toList q e hfound
    rcases Nat.lt_trichotomy k p with hlt | rfl | hgt
    · exact absurd (hbefore k e hlt hk) (Nat.not_le_of_lt he)
    · rw [Nat.zero_add, Option.some.inj (hk.symm.trans hp)]
    · exact absurd (hfirst p d hgt hp) (Nat.not_le_of_lt hd)

/-- If some digit is bad, the one found is a bad digit, and no bad digit stands before it. -/
theorem exists_firstBadDigit {ds : Vector Nibble 8} (h : ∃ d ∈ ds.toList, ¬ GoodDigit d) :
    ∃ p d, firstBadDigit ds = some (p, d) ∧ ds.toList[p]? = some d ∧ ¬ GoodDigit d ∧
      ∀ q e, ds.toList[q]? = some e → ¬ GoodDigit e → p ≤ q := by
  cases hfound : firstBadDigit ds with
  | none =>
    obtain ⟨d, hmem, hbad⟩ := h
    exact absurd ((firstBadDigitFrom_none_iff 0 ds.toList).mp hfound d hmem) hbad
  | some found =>
    obtain ⟨p, d⟩ := found
    obtain ⟨k, rfl, hk, hd, hfirst⟩ := firstBadDigitFrom_some 0 ds.toList p d hfound
    rw [Nat.zero_add]
    exact ⟨k, d, rfl, hk, Nat.not_le_of_lt hd, fun q e he hbad =>
      Nat.le_of_not_lt fun hq => hbad (hfirst q e hq he)⟩

/-- A position in the 8 digits fits the 3 bits of `AUX`. -/
theorem toNat_ofNat_position {ds : Vector Nibble 8} {p : Nat} {d : Nibble} (h : ds.toList[p]? = some d) :
    (BitVec.ofNat 3 p).toNat = p := by
  obtain ⟨hp, -⟩ := List.getElem?_eq_some_iff.mp h
  rw [Vector.length_toList] at hp
  exact Nat.mod_eq_of_lt hp

/-! The reading -/

/-- The walk's display is the one of the leading-space law (R129). -/
theorem displayOf_toList (ds : Vector Nibble 8) : (displayOf ds).toList = spacedDisplay ds.toList := by
  have hdisp : (displayOf ds).toList = walkDisplay ds.toList := rfl
  rw [hdisp, walkDisplay, walkDigits, (walk_spaces ds.toList []).1]
  rfl

/-- The frequency of 8 good digits fits its 32 bits. -/
theorem hzOf_toNat {ds : Vector Nibble 8} (h : ∀ d ∈ ds.toList, GoodDigit d) :
    (hzOf ds).toNat = 10 * decimalValue ds.toList := by
  have hlt := decimalValue_lt h
  rw [Vector.length_toList] at hlt
  rw [hzOf, walkDigits, (walk_spaces ds.toList []).2, BitVec.toNat_ofNat]
  omega

end Sys2Proof.Machine
end

section
/-! The bytes of a response and their digits (20_memory.md rule R54), and the response `Synth` makes of a frequency
(41_frequency_decoder.md rule R130). -/
namespace Sys2Proof.Machine

@[simp] theorem highNibble_digitPair (hi lo : Nibble) : highNibble (digitPair hi lo) = hi := by
  apply BitVec.eq_of_toNat_eq
  rw [highNibble, digitPair, BitVec.extractLsb'_toNat, toNat_append_eq_add, Nat.shiftRight_eq_div_pow]
  omega

@[simp] theorem lowNibble_digitPair (hi lo : Nibble) : lowNibble (digitPair hi lo) = lo := by
  apply BitVec.eq_of_toNat_eq
  rw [lowNibble, digitPair, BitVec.extractLsb'_toNat, toNat_append_eq_add, Nat.shiftRight_eq_div_pow]
  omega

theorem digitPair_nibbles (b : Byte) : digitPair (highNibble b) (lowNibble b) = b := by
  apply BitVec.eq_of_toNat_eq
  rw [highNibble, lowNibble, digitPair, toNat_append_eq_add, BitVec.extractLsb'_toNat, BitVec.extractLsb'_toNat,
    Nat.shiftRight_eq_div_pow, Nat.shiftRight_eq_div_pow]
  omega

theorem eq_of_nibbles_eq {a b : Byte} (hhi : highNibble a = highNibble b) (hlo : lowNibble a = lowNibble b) :
    a = b := by
  rw [← digitPair_nibbles a, hhi, hlo, digitPair_nibbles]

/-- The 8 digits and the mode byte determine a response. -/
theorem response_ext {rx rx' : Vector Byte 5}
    (hdigits : (responseDigits rx).toList = (responseDigits rx').toList) (hmode : rx[4] = rx'[4]) : rx = rx' := by
  simp only [responseDigits, Vector.toList_mk, List.cons.injEq, and_true] at hdigits
  obtain ⟨h0, l0, h1, l1, h2, l2, h3, l3⟩ := hdigits
  refine Vector.ext fun i hi => ?_
  match i, hi with
  | 0, _ => exact eq_of_nibbles_eq h0 l0
  | 1, _ => exact eq_of_nibbles_eq h1 l1
  | 2, _ => exact eq_of_nibbles_eq h2 l2
  | 3, _ => exact eq_of_nibbles_eq h3 l3
  | 4, _ => exact hmode

theorem goodDigit_of_mem_decimalDigits {q : Nat} {d : Nibble} (h : d ∈ decimalDigits q) : GoodDigit d := by
  obtain ⟨n, hn, rfl⟩ := List.mem_map.mp h
  have hlt : n < 10 := by
    simp only [List.mem_cons, List.not_mem_nil, or_false] at hn
    omega
  simp only [GoodDigit, BitVec.toNat_ofNat]
  omega

/-- Eight digits write every number below 10^8. -/
theorem decimalValue_decimalDigits {q : Nat} (h : q < 100000000) : decimalValue (decimalDigits q) = q := by
  simp only [decimalValue, decimalDigits, List.map_cons, List.map_nil, List.foldl_cons, List.foldl_nil,
    BitVec.toNat_ofNat]
  omega

/-- The digits of `Synth(hz, c)` are those of `hz / 10`. -/
theorem responseDigits_synthResponse (hz : Nat) (c : Byte) :
    (responseDigits (synthResponse hz c)).toList = decimalDigits (hz / 10) := by
  simp [responseDigits, synthResponse, decimalDigits]

theorem synthResponse_mode (hz : Nat) (c : Byte) : (synthResponse hz c)[4] = c := rfl

end Sys2Proof.Machine
end

section
/-! DECF, by 41_frequency_decoder.md: what the checks answer in each case of R124 to R126, what DECF then does to the
whole state, and the statements. -/
namespace Sys2Proof.Machine

/-! The checks, in R128's order -/

theorem parseFrequency_of_short {p : InPorts} (h : p.rxCount.toNat < 5) :
    parseFrequency p = .error ⟨.transportTimeout, .shortRead, 0, p.rxCount, 0⟩ := by
  rw [parseFrequency, if_pos h]

theorem parseFrequency_of_excess {p : InPorts} (h : 5 < p.rxCount.toNat) :
    parseFrequency p = .error ⟨.malformedResponse, .excessBytes, 0, p.rxCount, 0⟩ := by
  rw [parseFrequency, if_neg (Nat.lt_asymm h), if_pos h]

theorem parseFrequency_of_badDigit {p : InPorts} {pos : Nat} {d : Nibble} (hcount : p.rxCount = 5)
    (hbad : firstBadDigit (responseDigits p.rx) = some (pos, d)) :
    parseFrequency p = .error ⟨.malformedResponse, .badDigit, 0, BitVec.ofNat 3 pos, d.setWidth 8⟩ := by
  simp [parseFrequency, hcount, hbad]

theorem parseFrequency_of_badMode {p : InPorts} (hcount : p.rxCount = 5)
    (hgood : ∀ d ∈ (responseDigits p.rx).toList, GoodDigit d) (hmode : p.rx[4] ∉ modeSet) :
    parseFrequency p = .error ⟨.malformedResponse, .badMode, 0, 0, p.rx[4]⟩ := by
  have hnone : firstBadDigit (responseDigits p.rx) = none := (firstBadDigitFrom_none_iff 0 _).mpr hgood
  simp [parseFrequency, hcount, hnone, hmode]

theorem parseFrequency_of_accepted {p : InPorts} (h : AcceptedFrequency p) :
    parseFrequency p = .ok ⟨hzOf (responseDigits p.rx), displayOf (responseDigits p.rx), p.rx[4]⟩ := by
  obtain ⟨hcount, hgood, hmode⟩ := h
  have hnone : firstBadDigit (responseDigits p.rx) = none := (firstBadDigitFrom_none_iff 0 _).mpr hgood
  simp [parseFrequency, hcount, hnone, hmode]

/-- A response that is not accepted fails one of the checks. -/
theorem parseFrequency_of_not_accepted {p : InPorts} (h : ¬ AcceptedFrequency p) :
    ∃ e, parseFrequency p = .error e := by
  rcases Nat.lt_trichotomy p.rxCount.toNat 5 with hshort | hcount | hexcess
  · exact ⟨_, parseFrequency_of_short hshort⟩
  · have hcount : p.rxCount = 5 := BitVec.eq_of_toNat_eq hcount
    cases hfound : firstBadDigit (responseDigits p.rx) with
    | some found => exact ⟨_, parseFrequency_of_badDigit hcount hfound⟩
    | none =>
      have hgood := (firstBadDigitFrom_none_iff 0 _).mp hfound
      exact ⟨_, parseFrequency_of_badMode hcount hgood fun hmode => h ⟨hcount, hgood, hmode⟩⟩
  · exact ⟨_, parseFrequency_of_excess hexcess⟩

/-! The instruction -/

theorem exec_decf_of_ok {s : State} {r : FreqReading} (h : parseFrequency s.ports = .ok r) :
    exec .decf s = .next (s.quiet.commitFreq Config.installed.cfg r) := by
  simp [exec, execDecf, decfWith, h]

theorem exec_decf_of_error {s : State} {e : SoftError} (h : parseFrequency s.ports = .error e) :
    exec .decf s = .next (s.raiseSoft e) := by
  simp [exec, execDecf, decfWith, h]

/-- The whole next state of DECF on an error, with the word of the error as a number. -/
theorem exec_decf_records {s : State} {e : SoftError} {n : Nat} (h : parseFrequency s.ports = .error e)
    (hn : e.word.toNat = n) :
    exec .decf s = .next { s with lastErr := BitVec.ofNat 16 n, txOut := [], smOut := none } := by
  rw [exec_decf_of_error h, ← hn, BitVec.ofNat_toNat, BitVec.setWidth_eq]
  rfl

/-- DECF always completes. -/
theorem exec_decf_completes (s : State) : ∃ t, exec .decf s = .next t := by
  cases h : parseFrequency s.ports with
  | ok r => exact ⟨_, exec_decf_of_ok h⟩
  | error e => exact ⟨_, exec_decf_of_error h⟩

theorem lastErr_of_exec_decf {s t : State} {e : SoftError} (ht : exec .decf s = .next t)
    (h : parseFrequency s.ports = .error e) : t.lastErr = e.word := by
  rw [exec_decf_of_error h] at ht
  cases ht
  rfl

/-! The accepted responses -/

/-- DECF on an accepted response commits the reading of its digit walk (R123, R129). -/
theorem exec_decf_of_accepted {s : State} (hacc : AcceptedFrequency s.ports) :
    ∃ r : FreqReading, r.hz.toNat = 10 * decimalValue (responseDigits s.ports.rx).toList ∧
      r.disp.toList = spacedDisplay (responseDigits s.ports.rx).toList ∧ r.mode = s.ports.rx[4] ∧
      exec .decf s = .next (s.quiet.commitFreq Config.installed.cfg r) := by
  have ⟨_, hgood, _⟩ := hacc
  exact ⟨_, hzOf_toNat hgood, displayOf_toList _, rfl, exec_decf_of_ok (parseFrequency_of_accepted hacc)⟩

/-- What `FREQ_REG` holds after DECF on an accepted response. -/
theorem reading_of_accepted {s t : State} {r : FreqReading} (hacc : AcceptedFrequency s.ports)
    (ht : exec .decf s = .next t) (hr : t.freqReg = .holds r) :
    r.hz.toNat = 10 * decimalValue (responseDigits s.ports.rx).toList ∧
      r.disp.toList = spacedDisplay (responseDigits s.ports.rx).toList ∧ r.mode = s.ports.rx[4] := by
  obtain ⟨_, hhz, hdisp, hmode, hexec⟩ := exec_decf_of_accepted hacc
  rw [hexec] at ht
  cases ht
  cases hr
  exact ⟨hhz, hdisp, hmode⟩

/-- Settles O16: the leading zeros the law drops do not change the value. -/
theorem decfCommitsTheLeadingSpaceReading : Obligations.DecfCommitsTheLeadingSpaceReading := by
  intro s hacc
  obtain ⟨r, hhz, hdisp, hmode, hexec⟩ := exec_decf_of_accepted hacc
  exact ⟨r, by rw [decimalValue_drop_leadingZeros, hhz], hdisp, hmode, hexec⟩

/-- Settles O17: an accepted response is committed, and any other fails a check and records only that. -/
theorem decfCommitsBothRegistersOrNeither : Obligations.DecfCommitsBothRegistersOrNeither := by
  intro s
  by_cases hacc : AcceptedFrequency s.ports
  · obtain ⟨r, hhz, hdisp, hmode, hexec⟩ := exec_decf_of_accepted hacc
    exact ⟨_, hexec, fun _ => ⟨rfl, r, hhz, hdisp, hmode, rfl, rfl⟩, fun hnot => absurd hacc hnot⟩
  · obtain ⟨e, he⟩ := parseFrequency_of_not_accepted hacc
    exact ⟨_, exec_decf_of_error he, fun h => absurd h hacc, fun _ => ⟨rfl, rfl⟩⟩

/-- Settles O24: equal frequencies are equal values of 8 good digits, so the digits are the same. -/
theorem decfIsInjectiveOnAcceptedResponses : Obligations.DecfIsInjectiveOnAcceptedResponses := by
  intro s s' t t' r r' hacc hacc' ht ht' hr hr'
  have ⟨_, hgood, _⟩ := hacc
  have ⟨_, hgood', _⟩ := hacc'
  obtain ⟨hhz, hdisp, hmode⟩ := reading_of_accepted hacc ht hr
  obtain ⟨hhz', hdisp', hmode'⟩ := reading_of_accepted hacc' ht' hr'
  have hdigits (h : r.hz = r'.hz) : (responseDigits s.ports.rx).toList = (responseDigits s'.ports.rx).toList := by
    rw [h] at hhz
    exact eq_of_decimalValue_eq hgood hgood' (by simp) (by omega)
  constructor
  · intro h
    rw [← Vector.toList_inj, hdisp, hdisp', hdigits h]
  · intro h hm
    exact response_ext (hdigits h) (by rw [← hmode, ← hmode', hm])

/-- Settles O23: `Synth(hz, c)` is accepted, and its digits have the value `hz / 10`. -/
theorem decfRoundTripsSyntheticResponses : Obligations.DecfRoundTripsSyntheticResponses := by
  intro s hz c hten hmax hc hrx hcount
  have hdigits : (responseDigits s.ports.rx).toList = decimalDigits (hz / 10) := by
    rw [hrx, responseDigits_synthResponse]
  have hmode : s.ports.rx[4] = c := by rw [hrx, synthResponse_mode]
  have hacc : AcceptedFrequency s.ports :=
    ⟨hcount, hdigits ▸ fun _ => goodDigit_of_mem_decimalDigits, hmode ▸ hc⟩
  obtain ⟨r, hhz, -, hrmode, hexec⟩ := exec_decf_of_accepted hacc
  refine ⟨_, r, hexec, rfl, ?_, hrmode.trans hmode⟩
  rw [hhz, hdigits, decimalValue_decimalDigits (by omega)]
  omega

/-! The errors -/

/-- Settles O19: the count stands in `AUX`. -/
theorem decfByteCountErrors : Obligations.DecfByteCountErrors := by
  intro s
  constructor
  · intro h
    exact exec_decf_records (parseFrequency_of_short h) (by simp [SoftError.toNat_word, ErrKind.code, ErrCause.code])
  · intro h
    exact exec_decf_records (parseFrequency_of_excess h) (by simp [SoftError.toNat_word, ErrKind.code, ErrCause.code])

/-- Settles O20: the digit found first is the lowest bad one, and its position fits `AUX`. -/
theorem decfReportsTheLowestBadDigit : Obligations.DecfReportsTheLowestBadDigit := by
  intro s p d hcount hp hd hbefore
  refine exec_decf_records (parseFrequency_of_badDigit hcount (firstBadDigit_eq_some hp hd hbefore)) ?_
  rw [SoftError.toNat_word, toNat_ofNat_position hp, BitVec.toNat_setWidth_of_le (by decide)]
  simp [ErrKind.code, ErrCause.code]

/-- Every mode code has a label in a well-formed configuration (R5, R252). -/
theorem modeLabel_isSome_of_wf (c : WfConfig) {m : Byte} (h : m ∈ modeSet) : (c.cfg.modeLabel m).isSome := by
  have hwf := c.ok
  simp only [Config.wf, Bool.and_eq_true] at hwf
  obtain ⟨⟨⟨-, htotal⟩, -⟩, -⟩ := hwf
  exact List.all_eq_true.mp htotal m h

/-- Settles O21: with 5 bytes and good digits only the mode is left to check. -/
theorem decfLooksTheModeUp : Obligations.DecfLooksTheModeUp := by
  intro s hcount hgood
  constructor
  · intro hmode
    refine exec_decf_records (parseFrequency_of_badMode hcount hgood hmode) ?_
    simp [SoftError.toNat_word, ErrKind.code, ErrCause.code]
  · intro hmode
    obtain ⟨r, -, -, hr, hexec⟩ := exec_decf_of_accepted ⟨hcount, hgood, hmode⟩
    exact ⟨_, r, hexec, rfl, hr, modeLabel_isSome_of_wf Config.installed (hr ▸ hmode)⟩

/-- Settles O22: in each case `LAST_ERR` holds the word of the error of the first check that fails. -/
theorem decfErrorPriority : Obligations.DecfErrorPriority := by
  intro s
  obtain ⟨t, ht⟩ := exec_decf_completes s
  refine ⟨t, ht, fun hshort => ?_, fun hexcess => ?_, fun hcount hbad => ?_, fun hcount hgood hmode => ?_⟩
  · rw [lastErr_of_exec_decf ht (parseFrequency_of_short hshort), lastErrKind_word, lastErrCause_word]
    exact ⟨rfl, rfl⟩
  · rw [lastErr_of_exec_decf ht (parseFrequency_of_excess hexcess), lastErrKind_word, lastErrCause_word]
    exact ⟨rfl, rfl⟩
  · obtain ⟨p, d, hfound, hp, hd, hlowest⟩ := exists_firstBadDigit hbad
    rw [lastErr_of_exec_decf ht (parseFrequency_of_badDigit hcount hfound), lastErrKind_word, lastErrCause_word,
      lastErrAux_word, toNat_ofNat_position hp]
    exact ⟨rfl, rfl, ⟨d, hp, hd⟩, hlowest⟩
  · rw [lastErr_of_exec_decf ht (parseFrequency_of_badMode hcount hgood hmode), lastErrKind_word, lastErrCause_word]
    exact ⟨rfl, rfl⟩

end Sys2Proof.Machine
end

section
/-! The word of a status byte, by 42_status_decoder.md rules R151 to R154 and R158: its fields, its bits, its closed forms,
and the bit it does not depend on. -/
namespace Sys2Proof.Machine

/-! The fields of a packed word (R25) -/

@[simp] theorem statusSql_packStatus (sql tmm dcen : BitVec 1) (slvl : BitVec 5) :
    statusSql (packStatus sql tmm dcen slvl) = sql := by
  decide +revert

@[simp] theorem statusTmm_packStatus (sql tmm dcen : BitVec 1) (slvl : BitVec 5) :
    statusTmm (packStatus sql tmm dcen slvl) = tmm := by
  decide +revert

@[simp] theorem statusDcen_packStatus (sql tmm dcen : BitVec 1) (slvl : BitVec 5) :
    statusDcen (packStatus sql tmm dcen slvl) = dcen := by
  decide +revert

/-- A packed word is its fields, each shifted to its place. -/
theorem packStatus_eq_or (sql tmm dcen : BitVec 1) (slvl : BitVec 5) :
    packStatus sql tmm dcen slvl =
      (sql.setWidth 8 <<< 7) ||| (tmm.setWidth 8 <<< 6) ||| (dcen.setWidth 8 <<< 5) ||| slvl.setWidth 8 := by
  decide +revert

/-- A flag cut out of a byte is the byte's bit. -/
theorem extractBit_eq_ofBool (b : Byte) (k : Nat) : b.extractLsb' k 1 = BitVec.ofBool (b.getLsbD k) := by
  refine BitVec.eq_of_getLsbD_eq fun i hi => ?_
  obtain rfl : i = 0 := by omega
  simp

/-- A one-bit word is 1 exactly when its bit is set. -/
theorem ofBool_eq_one_iff (c : Bool) : BitVec.ofBool c = 1#1 ↔ c = true := BitVec.ofBool_eq_iff_eq (b' := true)

/-! The closed forms -/

theorem decodeStatus_eq_closedForm (cfg : Config) (b : Byte) :
    decodeStatus cfg b =
      (b &&& 0xC0#8) ||| (~~~b &&& 0x20#8) ||| (cfg.smeterExt.get (b.setWidth 4).toFin).setWidth 8 := by
  have hlevel : extendLevel cfg (rawLevel b) = cfg.smeterExt.get (b.setWidth 4).toFin := by
    rw [extendLevel, rawLevel, BitVec.setWidth_eq_extractLsb' (by decide)]
  rw [decodeStatus, hlevel, packStatus_eq_or]
  refine BitVec.eq_of_getLsbD_eq fun i hi => ?_
  interval_cases i <;> simp [extractBit_eq_ofBool]

/-- The identity table extends a raw level to the same number. -/
theorem identityExt_get (raw : Nibble) : identityExt.get raw.toFin = raw.setWidth 5 := by
  decide +revert

theorem decodeStatus_of_identity {cfg : Config} (h : cfg.smeterExt = identityExt) (b : Byte) :
    decodeStatus cfg b = (b &&& 0xEF) ^^^ 0x20 := by
  rw [decodeStatus_eq_closedForm, h, identityExt_get]
  refine BitVec.eq_of_getLsbD_eq fun i hi => ?_
  interval_cases i <;> simp

/-- Bit 4 is in none of the fields the decoder cuts out. -/
theorem decodeStatus_xor_bitFour (cfg : Config) (b : Byte) : decodeStatus cfg (b ^^^ 0x10) = decodeStatus cfg b := by
  simp [decodeStatus, rawLevel, BitVec.extractLsb'_xor]

end Sys2Proof.Machine
end

section
/-! DECS, by 42_status_decoder.md: what it does to the whole state at each byte count of R152, and the statements. -/
namespace Sys2Proof.Machine

/-- R152's cases: no byte, the one byte of a response, bytes in excess. -/
theorem rxCount_cases (n : BitVec 3) : n = 0 ∨ n = 1 ∨ 2 ≤ n.toNat := by
  decide +revert

theorem exec_decs_of_none {s : State} (h : s.ports.rxCount = 0) :
    exec .decs s = .next (s.raiseSoft ⟨.transportTimeout, .shortRead, 1, 0, 0⟩) := by
  simp [exec, execDecs, decsWith, h]

theorem exec_decs_of_one {s : State} (h : s.ports.rxCount = 1) :
    exec .decs s = .next (s.quiet.commitStatus (decodeStatus Config.installed.cfg s.ports.rx[0])) := by
  simp [exec, execDecs, decsWith, h]

theorem exec_decs_of_excess {s : State} (h : 2 ≤ s.ports.rxCount.toNat) :
    exec .decs s = .next (s.raiseSoft ⟨.malformedResponse, .excessBytes, 1, s.ports.rxCount, 0⟩) := by
  have hmany : ¬ s.ports.rxCount.toNat < 1 := by omega
  simp only [exec, execDecs, decsWith, if_neg hmany, if_pos (show 1 < s.ports.rxCount.toNat from h)]

/-- The whole next state of a soft error, with its word as a number. -/
theorem State.raiseSoft_eq_of_toNat_word {e : SoftError} {n : Nat} (s : State) (h : e.word.toNat = n) :
    s.raiseSoft e = { s with lastErr := BitVec.ofNat 16 n, txOut := [], smOut := none } := by
  rw [← h, BitVec.ofNat_toNat, BitVec.setWidth_eq]
  rfl

/-- Settles O25: the committed word in its closed form, and the four examples by the identity form. -/
theorem decsCommitsTheClosedFormWord : Obligations.DecsCommitsTheClosedFormWord := by
  refine ⟨fun s h => ?_, fun cfg h => ?_⟩
  · rw [exec_decs_of_one h, decodeStatus_eq_closedForm]
    rfl
  · have hword := decodeStatus_of_identity h
    exact ⟨hword, hword 0x96, hword 0x20, hword 0xFF, hword 0x10⟩

/-- Settles O26: each flag of the committed word is its bit of the byte, the third one inverted. -/
theorem decsFlagPolarity : Obligations.DecsFlagPolarity := by
  intro s h
  refine ⟨_, _, exec_decs_of_one h, rfl, ?_⟩
  simp only [decodeStatus, statusSql_packStatus, statusTmm_packStatus, statusDcen_packStatus]
  simp [extractBit_eq_ofBool, ofBool_eq_one_iff]

/-- Settles O27: the count stands in `AUX`. -/
theorem decsByteCountErrors : Obligations.DecsByteCountErrors := by
  intro s
  constructor
  · intro h
    rw [exec_decs_of_none h]
    rfl
  · intro h
    rw [exec_decs_of_excess h]
    refine congrArg Host.Outcome.next (s.raiseSoft_eq_of_toNat_word ?_)
    simp [SoftError.toNat_word, ErrKind.code, ErrCause.code]

/-- Settles O28: the other byte is the first one with bit 4 flipped. -/
theorem decsIgnoresBitFour : Obligations.DecsIgnoresBitFour := by
  intro s s' h h' hdiff
  have hbyte : s'.ports.rx[0] = s.ports.rx[0] ^^^ 0x10 := by
    rw [← hdiff, ← BitVec.xor_assoc, BitVec.xor_self, BitVec.zero_xor]
  refine ⟨_, _, _, exec_decs_of_one h, exec_decs_of_one h', rfl, ?_⟩
  rw [State.commitStatus_statusReg, hbyte, decodeStatus_xor_bitFour]

/-- Settles O29: one byte is committed and touches no error, and any other count records an error and touches no other
register. -/
theorem decsCommitsOrKeepsStatus : Obligations.DecsCommitsOrKeepsStatus := by
  intro s
  obtain h | h | h := rxCount_cases s.ports.rxCount
  · exact ⟨_, exec_decs_of_none h, by simp [h]⟩
  · exact ⟨_, exec_decs_of_one h, by simp [h]⟩
  · have hne : s.ports.rxCount ≠ 1 := fun hone => by simp [hone] at h
    exact ⟨_, exec_decs_of_excess h, fun hone => absurd hone hne, by simp⟩

end Sys2Proof.Machine
end

section
/-! The S-meter scale, by 43_smeter_lut.md: the rows of R172 from the rules R173 to R175, the number of cells of each kind
(R176), and the glyphs of the cells (R171). -/
namespace Sys2Proof.Machine

/-! The rows -/

/-- The row of R172 that R173 to R175 give a level: label, nMark, nAlt, nDot. -/
def scaleRow (level : Nat) : Text × Nat × Nat × Nat :=
  (scaleLabel level, markCount level, altCount level, dotCount level)

theorem scaleTable_eq_map_scaleRow : scaleTable = (List.range 32).map scaleRow := by decide

theorem scaleTable_getD (level : BitVec 5) (row : Text × Nat × Nat × Nat) :
    scaleTable.getD level.toNat row = scaleRow level.toNat := by
  have hlevel : level.toNat < 32 := level.isLt
  simp [scaleTable_eq_map_scaleRow, List.getD_eq_getElem?_getD, List.getElem?_range hlevel]

/-- Settles O30: the row the table has at a level is the one the rules give that level. -/
theorem scaleIsTheTabulatedLut : Obligations.ScaleIsTheTabulatedLut := by
  intro level
  rw [tableRecord, scaleTable_getD]
  rfl

/-! The cells -/

theorem markCount_add_altCount (level : Nat) : markCount level + altCount level = level := by
  unfold markCount altCount
  split <;> omega

theorem add_dotCount (level : BitVec 5) : level.toNat + dotCount level.toNat = 31 := by
  unfold dotCount
  omega

theorem count_mark_scaleOf (level : BitVec 5) : (scaleOf level).cells.count .mark = markCount level.toNat := by
  simp [scaleOf, List.count_replicate]

theorem count_alt_scaleOf (level : BitVec 5) : (scaleOf level).cells.count .alt = altCount level.toNat := by
  simp [scaleOf, List.count_replicate]

theorem count_dot_scaleOf (level : BitVec 5) : (scaleOf level).cells.count .dot = dotCount level.toNat := by
  simp [scaleOf, List.count_replicate]

theorem length_cells_scaleOf (level : BitVec 5) : (scaleOf level).cells.length = 31 := by
  simp [scaleOf, ← Nat.add_assoc, markCount_add_altCount, add_dotCount]

/-- Settles O32: the counts of R175 add up to the level and to 31. -/
theorem scaleCellCounts : Obligations.ScaleCellCounts := by
  intro level
  rw [count_mark_scaleOf, count_alt_scaleOf, count_dot_scaleOf, markCount_add_altCount]
  exact ⟨length_cells_scaleOf level, rfl, add_dotCount level⟩

/-! The glyphs -/

/-- The cell a glyph stands for: what is neither the mark's glyph nor the dot's is the alternate mark's. -/
def symbolOf (g : Byte) : Symbol := if g = 0x7C then .mark else if g = 0x2E then .dot else .alt

/-- The alternate glyph of a well-formed configuration is neither of the two fixed ones (R5). -/
theorem glyphAlt_ne_of_wf (c : WfConfig) : c.cfg.glyphAlt ≠ 0x7C ∧ c.cfg.glyphAlt ≠ 0x2E := by
  have hwf := c.ok
  simp only [Config.wf, Bool.and_eq_true] at hwf
  obtain ⟨-, hglyph⟩ := hwf
  exact of_decide_eq_true hglyph

theorem symbolOf_leftInverse_glyphOf (c : WfConfig) : Function.LeftInverse symbolOf (glyphOf c.cfg) := by
  intro cell
  obtain ⟨hmark, hdot⟩ := glyphAlt_ne_of_wf c
  cases cell with
  | mark => rfl
  | alt => rw [glyphOf, symbolOf, if_neg hmark, if_neg hdot]
  | dot => rfl

/-- Settles O33: the glyphs are the cells' own, and the constraint on `GLYPH_ALT` makes them tell the cells apart. -/
theorem renderedBarCanBeReadBack : Obligations.RenderedBarCanBeReadBack := by
  intro level
  refine ⟨(scaleOf level).cells.map (glyphOf Config.installed.cfg), rfl, ?_, ?_, ?_⟩
  · rw [List.length_map, length_cells_scaleOf]
  · intro k c hc
    rw [List.getElem?_map, hc]
    cases c <;> rfl
  · exact (symbolOf_leftInverse_glyphOf Config.installed).list_map (scaleOf level).cells

end Sys2Proof.Machine
end

section
/-! Session control, by 44_session_control.md: what CLRE does to the whole state. -/
namespace Sys2Proof.Machine

/-- The meaning of CLRE (R74, R190): it begins with quiet output ports, and its one write is to `LAST_ERR`. -/
theorem exec_clre (s : State) : exec .clre s = .next s.quiet.clearError := rfl

theorem State.clearError_quiet_eq (s : State) :
    s.quiet.clearError = { s with lastErr := 0x0000, txOut := [], smOut := none } := rfl

/-- Settles O35: quieting the ports and clearing `LAST_ERR` touch three fields of the state and no other. -/
theorem clreClearsTheLastError : Obligations.ClreClearsTheLastError := by
  intro s
  rw [exec_clre, State.clearError_quiet_eq]

end Sys2Proof.Machine
end

section
/-! The command words, by 30_encoding.md: the decoder against the encoder (R78, R79), and the words R80 calls
illegal. -/
namespace Sys2Proof.Machine

/-! The two directions -/

theorem decode_encode (i : Instr) : decode (encode i) = .legal i := by
  cases i with
  | encm m => decide +revert
  | fmts src => decide +revert
  | encf | encs | decf | decs | clre => rfl

/-- A word is its two fields, `op` first (R77). -/
theorem eq_append_argField {w : Byte} {op : Nat} (h : (opField w).toNat = op) :
    w = BitVec.ofNat 4 op ++ argField w := by
  rw [← h, BitVec.ofNat_toNat, BitVec.setWidth_eq]
  exact (digitPair_nibbles w).symm

/-- If a row's word is right whenever its reserved bits are clear, the instruction the row gives has that word. -/
theorem encode_eq_of_ifClear {n : Nat} {reserved : BitVec n} {i j : Instr} {w : Byte}
    (hrow : reserved = 0 → encode i = w) (h : ifClear reserved i = .legal j) : encode j = w := by
  unfold ifClear at h
  split at h
  next hclear => cases h; exact hrow hclear
  next => cases h

/-- In a row without an operand all of `arg` is reserved, and the row's word is its `op` with nothing below. -/
theorem encode_eq_of_plain_row {w : Byte} {op : Nat} {i j : Instr} (hop : (opField w).toNat = op)
    (hrow : encode i = BitVec.ofNat 4 op ++ 0#4) (h : ifClear (argField w) i = .legal j) : encode j = w :=
  encode_eq_of_ifClear (fun harg => by rw [eq_append_argField hop, harg]; exact hrow) h

/-- A two-bit operand below two clear bits is the whole `arg` field. -/
theorem encode_encm_of_clear {arg : Nibble} (h : arg.extractLsb' 2 2 = 0) :
    encode (.encm (arg.extractLsb' 0 2)) = 3#4 ++ arg := by
  decide +revert

/-- A one-bit operand below three clear bits is the whole `arg` field. -/
theorem encode_fmts_of_clear {arg : Nibble} (h : arg.extractLsb' 1 3 = 0) :
    encode (.fmts (arg.extractLsb' 0 1)) = 6#4 ++ arg := by
  decide +revert

/-- No word but its encoding decodes to an instruction: the row fixes `op`, and the reserved bits are clear (R79). -/
theorem encode_eq_of_decode_eq_legal {w : Byte} {i : Instr} (h : decode w = .legal i) : encode i = w := by
  unfold decode at h
  split at h
  next hop => exact encode_eq_of_plain_row hop rfl h
  next hop => exact encode_eq_of_plain_row hop rfl h
  next hop =>
    exact encode_eq_of_ifClear (fun hclear => (encode_encm_of_clear hclear).trans (eq_append_argField hop).symm) h
  next hop => exact encode_eq_of_plain_row hop rfl h
  next hop => exact encode_eq_of_plain_row hop rfl h
  next hop =>
    exact encode_eq_of_ifClear (fun hclear => (encode_fmts_of_clear hclear).trans (eq_append_argField hop).symm) h
  next hop => exact encode_eq_of_plain_row hop rfl h
  next => cases h

/-- Settles O1: the word of an instruction decodes to it, and no second word does. -/
theorem decodeInvertsEncodeExactly : Obligations.DecodeInvertsEncodeExactly := by
  intro w i
  constructor
  · exact encode_eq_of_decode_eq_legal
  · rintro rfl
    exact decode_encode i

theorem instr?_eq_some_iff {d : Decoded} {i : Instr} : d.instr? = some i ↔ d = .legal i := by
  cases d <;> simp [Decoded.instr?]

/-- Settles O2: a legal word is the word of its instruction, and the listed words are those. -/
theorem opcodeMapIsTheCompleteCommandSet : Obligations.OpcodeMapIsTheCompleteCommandSet := by
  refine ⟨decode_encode .encf, decode_encode .encs, fun m => ?_, decode_encode .decf, decode_encode .decs,
    fun src => ?_, decode_encode .clre, fun w hw => ?_⟩
  · have hrow : 0x30 + m.setWidth 8 = encode (.encm m) := by decide +revert
    rw [hrow, decode_encode]
  · have hrow : 0x60 + src.setWidth 8 = encode (.fmts src) := by decide +revert
    rw [hrow, decode_encode]
  · refine Option.eq_none_iff_forall_ne_some.mpr fun i hi => hw ?_
    rw [← encode_eq_of_decode_eq_legal (instr?_eq_some_iff.mp hi)]
    cases i with
    | encm m => decide +revert
    | fmts src => decide +revert
    | encf | encs | decf | decs | clre => decide

/-! The illegal words (R80) -/

theorem not_illegalWord_encode (i : Instr) : ¬ IllegalWord (encode i) := by
  cases i with
  | encm m => decide +revert
  | fmts src => decide +revert
  | encf | encs | decf | decs | clre => decide

theorem toNat_encode_encm (m : BitVec 2) : (encode (.encm m)).toNat = 0x30 + m.toNat := by
  decide +revert

theorem toNat_encode_fmts (src : BitVec 1) : (encode (.fmts src)).toNat = 0x60 + src.toNat := by
  decide +revert

/-- A word R80 does not call illegal has one of the seven ops and zeros above its operand: it is an instruction's. -/
theorem exists_encode_eq_of_not_illegalWord {w : Byte} (h : ¬ IllegalWord w) : ∃ i, encode i = w := by
  have hsplit : (∃ i ∈ [Instr.encf, .encs, .decf, .decs, .clre], (encode i).toNat = w.toNat) ∨
      (0x30 ≤ w.toNat ∧ w.toNat < 0x34) ∨ (0x60 ≤ w.toNat ∧ w.toNat < 0x62) := by
    simp [encode]
    omega
  rcases hsplit with ⟨i, -, hi⟩ | hm | hs
  · exact ⟨i, BitVec.eq_of_toNat_eq hi⟩
  · refine ⟨.encm (BitVec.ofNat 2 (w.toNat - 0x30)), BitVec.eq_of_toNat_eq ?_⟩
    rw [toNat_encode_encm, BitVec.toNat_ofNat]
    omega
  · refine ⟨.fmts (BitVec.ofNat 1 (w.toNat - 0x60)), BitVec.eq_of_toNat_eq ?_⟩
    rw [toNat_encode_fmts, BitVec.toNat_ofNat]
    omega

theorem exists_illegal_of_illegalWord {w : Byte} (h : IllegalWord w) : ∃ why, decode w = .illegal why := by
  cases hd : decode w with
  | illegal why => exact ⟨why, rfl⟩
  | legal i => exact absurd (encode_eq_of_decode_eq_legal hd ▸ h) (not_illegalWord_encode i)

/-- Counting below `a * b` row by row. -/
theorem countP_range_mul (p : Nat → Bool) (a b : Nat) :
    (List.range (a * b)).countP p = ((List.range a).map fun i => (List.range b).countP fun j => p (i * b + j)).sum := by
  induction a with
  | zero => simp
  | succ a ih => simp [Nat.succ_mul, List.range_add, List.range_succ, List.countP_map, ih, Function.comp_def]

/-- Of the 256 words, in 16 rows of one `op` each, 11 are legal. -/
theorem countP_illegal_words :
    ((List.range 256).countP fun n => (decode (BitVec.ofNat 8 n)).instr?.isNone) = 245 :=
  (countP_range_mul _ 16 16).trans (by decide)

end Sys2Proof.Machine
end

section
/-! The configuration, by 00_scope.md rule R5: what each check of well-formedness says about a configuration that passed
it, and the host's lookup of a macro name. -/
namespace Sys2Proof.Machine

/-- The macro names of a well-formed configuration are pairwise distinct (R5, R252). -/
theorem macroNames_injective_of_wf (c : WfConfig) : Function.Injective c.cfg.macroNames.get := by
  have hwf := c.ok
  simp only [Config.wf, Bool.and_eq_true] at hwf
  obtain ⟨⟨⟨⟨⟨-, hdistinct⟩, -⟩, -⟩, -⟩, -⟩ := hwf
  have hnodup : c.cfg.macroNames.toList.Nodup := of_decide_eq_true hdistinct
  intro m n hmn
  exact Fin.ext (hnodup.getElem_inj_iff.mp hmn)

/-- The two macro names the spec binds (R106, decision D15). -/
theorem macroNames_bound_of_wf (c : WfConfig) :
    c.cfg.macroNames[0] = ascii ['g', 'b', '3', 't', 's'] ∧ c.cfg.macroNames[1] = ascii ['g', 'b', '3', 'n', 't'] := by
  have hwf := c.ok
  simp only [Config.wf, Bool.and_eq_true] at hwf
  obtain ⟨⟨⟨⟨-, hbound⟩, -⟩, -⟩, -⟩ := hwf
  exact of_decide_eq_true hbound

/-- The one mode label the spec fixes (R84). -/
theorem upperSideband_of_wf (c : WfConfig) : c.cfg.modeLabel 0x01 =
    some (ascii ['U', 'p', 'p', 'e', 'r', ' ', 'S', 'i', 'd', 'e', 'b', 'a', 'n', 'd']) := by
  have hwf := c.ok
  simp only [Config.wf, Bool.and_eq_true] at hwf
  obtain ⟨⟨-, hlabel⟩, -⟩ := hwf
  exact of_decide_eq_true hlabel

/-- Settles O49: the installed configuration is well-formed by its type, and these are the checks it passed. -/
theorem installedConfigurationMeetsItsConstraints : Obligations.InstalledConfigurationMeetsItsConstraints := by
  obtain ⟨hgb3ts, hgb3nt⟩ := macroNames_bound_of_wf Config.installed
  exact ⟨fun m => macro_length_of_wf Config.installed (BitVec.ofFin m), fun _ _ hmn => macroNames_injective_of_wf _ hmn,
    hgb3ts, hgb3nt, fun _ hc => modeLabel_isSome_of_wf Config.installed hc, upperSideband_of_wf Config.installed,
    glyphAlt_ne_of_wf Config.installed⟩

/-! The host's lookup of a macro name (R194) -/

/-- A macro's name finds the macro, for no macro before it has that name. -/
theorem macroIndex_get (c : WfConfig) (m : BitVec 2) : macroIndex c.cfg (c.cfg.macroNames.get m.toFin) = some m := by
  have hfirst : c.cfg.macroNames.toList.idxOf? (c.cfg.macroNames.get m.toFin) = some m.toNat := by
    refine List.idxOf?_eq_some_iff.mpr ⟨by simp [m.isLt], rfl, fun j hj hsame => ?_⟩
    have hm := m.isLt
    have hindex := macroNames_injective_of_wf c (a₁ := ⟨j, by omega⟩) (a₂ := m.toFin) hsame
    exact Nat.ne_of_lt hj (congrArg Fin.val hindex)
  rw [macroIndex, hfirst, Option.map_some, BitVec.ofNat_toNat, BitVec.setWidth_eq]

theorem macroIndex_eq_none {cfg : Config} {name : Text} (h : name ∉ cfg.macroNames.toList) :
    macroIndex cfg name = none := by
  rw [macroIndex, List.idxOf?_eq_none_iff.mpr h, Option.map_none]

/-- Settles O54: the lookup comes before any step. -/
theorem unknownMacroNameIsRefused : Obligations.UnknownMacroNameIsRefused := by
  intro x extra name hname
  rw [Session.runMacro, macroIndex_eq_none hname]

end Sys2Proof.Machine
end

section
/-! The assembler notation, by 30_encoding.md rule R85: what each kind of line assembles to. -/
namespace Sys2Proof.Machine

theorem assemble_encm (cfg : Config) (o : AsmOperand) :
    assemble cfg ⟨mnemonicOf (.encm 0), some o⟩ = (asmMacro cfg o).map .encm := rfl

theorem assemble_fmts (cfg : Config) (o : AsmOperand) :
    assemble cfg ⟨mnemonicOf (.fmts 0), some o⟩ = (asmSource o).map .fmts := rfl

theorem asmMacro_number (cfg : Config) (m : BitVec 2) : asmMacro cfg (.number m.toNat) = some m := by
  simp [asmMacro, m.isLt]

theorem asmSource_number (src : BitVec 1) : asmSource (.number src.toNat) = some src := by
  simp [asmSource, src.isLt]

/-- Settles O4: each mnemonic is its row's alone, and the operand's number is read back; the bound names are those of
macros 0 and 1. -/
theorem assemblerReadsWhatItWrites : Obligations.AssemblerReadsWhatItWrites := by
  obtain ⟨hgb3ts, hgb3nt⟩ := macroNames_bound_of_wf Config.installed
  refine ⟨fun cfg i => ?_, ?_, ?_⟩
  · cases i with
    | encm m => exact (assemble_encm cfg _).trans (by rw [asmMacro_number]; rfl)
    | fmts src => exact (assemble_fmts cfg _).trans (by rw [asmSource_number]; rfl)
    | encf | encs | decf | decs | clre => rfl
  · rw [← hgb3ts]
    exact (assemble_encm _ _).trans (congrArg _ (macroIndex_get Config.installed 0))
  · rw [← hgb3nt]
    exact (assemble_encm _ _).trans (congrArg _ (macroIndex_get Config.installed 1))

end Sys2Proof.Machine
end

section
/-! One step, by the host's next action (30_encoding.md rule R74, 10_state.md rules R27 and R39): an equation for each
case, and what a step leaves while the block is faulted. -/
namespace Sys2Proof.Machine

variable {s : State} {rest : List HostAction}

/-! The host's next action -/

theorem step_of_idle (h : s.pending = []) : step s = .next s := by
  simp only [step, serveHost, h]

theorem step_of_action {a : HostAction} (h : s.pending = a :: rest) :
    step s = perform a { s with pending := rest } := by
  simp only [step, serveHost, h]

theorem State.faulted_eq_false (h : s.fault.code = 0) : s.faulted = false := by
  simp [State.faulted, h]

theorem runWord_of_faulted {p : InPorts} (hf : s.fault.code ≠ 0) :
    runWord p s = .fault (.blockFaulted s.fault.code s.fault.cmd) := by
  rw [runWord, if_pos (s.faulted_iff.mpr hf)]

theorem runWord_of_legal {p : InPorts} {i : Instr} (hf : s.fault.code = 0) (hd : decode p.cmd = .legal i) :
    runWord p s = exec i (s.drivePorts p) := by
  simp [runWord, State.faulted_eq_false hf, hd]

theorem runWord_of_illegal {p : InPorts} {why : Illegal} (hf : s.fault.code = 0) (hd : decode p.cmd = .illegal why) :
    runWord p s = .next ((s.drivePorts p).raiseFault .illegalCmd p.cmd) := by
  simp [runWord, State.faulted_eq_false hf, hd]

/-- Settles O5: the word is decoded, and the state it runs in has the ports driven. -/
theorem stepRunsTheDecodedInstruction : Obligations.StepRunsTheDecodedInstruction := by
  intro s p rest i hp hf hd
  exact (step_of_action hp).trans (runWord_of_legal hf hd)

/-- Settles O6: a faulted block answers the same for every word. -/
theorem faultedBlockHasNoStep : Obligations.FaultedBlockHasNoStep := by
  intro s p rest hp hf
  exact (step_of_action hp).trans (runWord_of_faulted hf)

/-- Settles O8: with an empty list there is no action to perform. -/
theorem idleBlockHoldsItsState : Obligations.IdleBlockHoldsItsState :=
  fun _ => step_of_idle

/-- Settles O10: a reset looks at nothing of the state but the host's list. -/
theorem platformResetRestoresResetState : Obligations.PlatformResetRestoresResetState := by
  intro s rest hp
  rw [step_of_action hp, perform]
  rfl

/-- Settles O3: an illegal word decodes to no instruction, so the step takes the fault. -/
theorem illegalWordFaultsAndChangesNothing : Obligations.IllegalWordFaultsAndChangesNothing := by
  refine ⟨fun s p rest hp hf hillegal => ?_, fun w hw => ?_, countP_illegal_words⟩
  · obtain ⟨why, hd⟩ := exists_illegal_of_illegalWord hillegal
    exact (step_of_action hp).trans (runWord_of_illegal hf hd)
  · obtain ⟨i, rfl⟩ := exists_encode_eq_of_not_illegalWord hw
    exact ⟨i, decode_encode i⟩

/-! Host reads -/

/-- What the host will do is nothing a read gives. -/
@[simp] theorem State.readValue_pending (s : State) (rest : List HostAction) (r : ReadPort) :
    ({ s with pending := rest } : State).readValue r = s.readValue r := by
  cases r <;> rfl

theorem step_of_read {r : ReadPort} {v : ReadValue} (hp : s.pending = .read r :: rest) (hv : s.readValue r = some v) :
    step s = .next { s with pending := rest, rdOut := some v } := by
  rw [step_of_action hp, perform, State.hostRead, State.readValue_pending, hv]

theorem step_of_empty_read {r : ReadPort} (hp : s.pending = .read r :: rest) (hv : s.readValue r = none)
    (hf : s.fault.code = 0) :
    step s = .next { s with pending := rest, rdOut := none, txOut := [], smOut := none, fault := ⟨2, 0x00⟩ } := by
  have hf' : ({ s with pending := rest } : State).faulted = false := State.faulted_eq_false hf
  rw [step_of_action hp, perform, State.hostRead, State.readValue_pending, hv, hf']
  rfl

theorem step_of_empty_read_faulted {r : ReadPort} (hp : s.pending = .read r :: rest) (hv : s.readValue r = none)
    (hf : s.fault.code ≠ 0) : step s = .next { s with pending := rest, rdOut := none } := by
  have hf' : ({ s with pending := rest } : State).faulted = true := (State.faulted_iff _).mpr hf
  rw [step_of_action hp, perform, State.hostRead, State.readValue_pending, hv, hf']
  rfl

/-- The fields of an empty register have no value (R27). -/
theorem State.readValue_eq_none {r : ReadPort}
    (h : ((r = .freqHz ∨ r = .freqDisp ∨ r = .freqMode) ∧ s.freqReg = .empty) ∨
      (r = .statusWord ∧ s.statusReg = .empty) ∨
      ((r = .classRegion ∨ r = .classBand ∨ r = .classNote) ∧ s.classReg = .empty)) : s.readValue r = none := by
  rcases h with ⟨rfl | rfl | rfl, hreg⟩ | ⟨rfl, hreg⟩ | ⟨rfl | rfl | rfl, hreg⟩ <;>
    simp only [State.readValue, hreg, Held.field_empty]

/-- Settles O47: a field has its register's value, or none, and the fault code tells the two empty reads apart. -/
theorem hostReadsOfHeldRegisters : Obligations.HostReadsOfHeldRegisters := by
  intro s rest r hp
  refine ⟨fun v hreg => ⟨?_, ?_, ?_⟩, fun w hreg => ?_, fun c hreg => ⟨?_, ?_, ?_⟩,
    fun hf hempty => step_of_empty_read hp (State.readValue_eq_none hempty) hf,
    fun hf hempty => step_of_empty_read_faulted hp (State.readValue_eq_none hempty) hf⟩ <;>
    (rintro rfl; exact step_of_read hp (by simp only [State.readValue, hreg, Held.field_holds]))

/-- Settles O48: each of these ports has a value in every state. -/
theorem alwaysReadableRegisters : Obligations.AlwaysReadableRegisters := by
  intro s rest r hp
  refine ⟨?_, ?_, ?_, ?_, ?_⟩ <;> (rintro rfl; exact step_of_read hp rfl)

/-! A host read writes no register and no history but, on an empty register, `FAULT` -/

@[simp] theorem State.hostRead_frame (s : State) (r : ReadPort) :
    (s.hostRead r).freqReg = s.freqReg ∧ (s.hostRead r).statusReg = s.statusReg ∧ (s.hostRead r).classReg = s.classReg ∧
      (s.hostRead r).lastErr = s.lastErr ∧ (s.hostRead r).txh = s.txh := by
  rcases s.hostRead_cases r with ⟨v, -, heq⟩ | ⟨-, -, heq⟩ | ⟨-, -, heq⟩ <;> simp [heq]

theorem State.hostRead_fault_of_faulted {s : State} (r : ReadPort) (hf : s.fault.code ≠ 0) :
    (s.hostRead r).fault = s.fault := by
  rcases s.hostRead_cases r with ⟨v, -, heq⟩ | ⟨-, -, heq⟩ | ⟨-, hnot, -⟩
  · rw [heq]
  · rw [heq]
  · rw [s.faulted_iff.mpr hf] at hnot
    cases hnot

/-! What a step that is no reset leaves -/

/-- Settles O7: a faulted block only idles and answers reads, and a read does not overwrite `FAULT`. -/
theorem faultKeepsItsValueUntilReset : Obligations.FaultKeepsItsValueUntilReset := by
  intro s t hf hreset h
  have hfaulted : s.faulted ≠ false := by simp [s.faulted_iff.mpr hf]
  rcases step_cases h with ⟨-, rfl⟩ | ⟨r, rest, -, rfl⟩ | ⟨rest, hp, -⟩ | ⟨p, rest, i, -, hnot, -⟩ |
    ⟨p, rest, why, -, hnot, -⟩
  · exact ⟨rfl, rfl, rfl, rfl, rfl, rfl⟩
  · exact ⟨State.hostRead_fault_of_faulted r hf, by simp⟩
  · exact absurd (congrArg List.head? hp) hreset
  · exact absurd hnot hfaulted
  · exact absurd hnot hfaulted

end Sys2Proof.Machine
end

section
/-! The effects of the instructions: `exec` as a relation with one case for each thing an instruction can do, so that a
proof over all instructions is a case split over effects. The accesses of R37 and the non-interference of R223 and R75
are read off it. -/
namespace Sys2Proof.Machine

/-! The relation -/

/-- The ROM entry of an encoder instruction; the other instructions have none (R102 to R104). -/
def romEntry : Instr → Option RomId
  | .encf => some .rdFreq
  | .encs => some .rdStat
  | .encm m => some (.macroAt m)
  | .decf | .decs | .fmts _ | .clre => none

/-- The soft error of a byte count DECS does not take (R152). -/
def statusError (count : BitVec 3) : SoftError :=
  if count = 0 then ⟨.transportTimeout, .shortRead, 1, count, 0⟩ else ⟨.malformedResponse, .excessBytes, 1, count, 0⟩

/-- What running an instruction in `s` can come to: the next state, in terms of the shared operations. -/
inductive Effect (s : State) : Instr → State → Prop
  | emits {i : Instr} {id : RomId} (hentry : romEntry i = some id) :
      Effect s i (s.quiet.transmit (macroEvents (romRead Config.installed.cfg id)))
  | commitsFreq {r : FreqReading} (hok : parseFrequency s.ports = .ok r) :
      Effect s .decf (s.quiet.commitFreq Config.installed.cfg r)
  | rejectsFreq {e : SoftError} (herror : parseFrequency s.ports = .error e) : Effect s .decf (s.raiseSoft e)
  | commitsStatus (hcount : s.ports.rxCount = 1) :
      Effect s .decs (s.quiet.commitStatus (decodeStatus Config.installed.cfg s.ports.rx[0]))
  | rejectsStatus (hcount : s.ports.rxCount ≠ 1) : Effect s .decs (s.raiseSoft (statusError s.ports.rxCount))
  | drivesScale {src : BitVec 1} {level : BitVec 5} (hlevel : fmtsLevel src s = some level) :
      Effect s (.fmts src) (s.quiet.driveSm (scaleOf level))
  | takesEmptyReg (hempty : s.statusReg = .empty) : Effect s (.fmts 1) (s.raiseFault .emptyReg 0x61)
  | clears : Effect s .clre s.quiet.clearError

theorem exec_of_romEntry {i : Instr} {id : RomId} (h : romEntry i = some id) (s : State) :
    exec i s = .next (s.quiet.transmit (macroEvents (romRead Config.installed.cfg id))) := by
  cases i <;> cases h <;> exact congrArg Host.Outcome.next (State.emitFrames_eq _ _)

theorem exec_decs_of_error {s : State} (h : s.ports.rxCount ≠ 1) :
    exec .decs s = .next (s.raiseSoft (statusError s.ports.rxCount)) := by
  obtain hnone | hone | hmany := rxCount_cases s.ports.rxCount
  · rw [exec_decs_of_none hnone, hnone]
    rfl
  · exact absurd hone h
  · have hne : s.ports.rxCount ≠ 0 := fun hzero => by simp [hzero] at hmany
    rw [exec_decs_of_excess hmany, statusError, if_neg hne]

theorem fmtsLevel_zero (s : State) : fmtsLevel 0 s = some s.ports.lvl := rfl

theorem fmtsLevel_one_of_holds {s : State} {w : Byte} (h : s.statusReg = .holds w) :
    fmtsLevel 1 s = some (statusLevel w) := by
  simp [fmtsLevel, h]

theorem fmtsLevel_one_of_empty {s : State} (h : s.statusReg = .empty) : fmtsLevel 1 s = none := by
  simp [fmtsLevel, h]

theorem exec_fmts_of_level {s : State} {src : BitVec 1} {level : BitVec 5} (h : fmtsLevel src s = some level) :
    exec (.fmts src) s = .next (s.quiet.driveSm (scaleOf level)) := by
  simp [exec, execFmts, h]

theorem exec_fmts_of_empty {s : State} (h : s.statusReg = .empty) :
    exec (.fmts 1) s = .next (s.raiseFault .emptyReg 0x61) := by
  simp only [exec, execFmts, fmtsLevel_one_of_empty h]
  rfl

/-- Every instruction completes, with one of the effects. -/
theorem exec_completes (i : Instr) (s : State) : ∃ t, exec i s = .next t ∧ Effect s i t := by
  cases i with
  | encf => exact ⟨_, exec_of_romEntry rfl s, .emits rfl⟩
  | encs => exact ⟨_, exec_of_romEntry rfl s, .emits rfl⟩
  | encm m => exact ⟨_, exec_of_romEntry rfl s, .emits rfl⟩
  | decf =>
    cases hparse : parseFrequency s.ports with
    | ok r => exact ⟨_, exec_decf_of_ok hparse, .commitsFreq hparse⟩
    | error e => exact ⟨_, exec_decf_of_error hparse, .rejectsFreq hparse⟩
  | decs =>
    by_cases hcount : s.ports.rxCount = 1
    · exact ⟨_, exec_decs_of_one hcount, .commitsStatus hcount⟩
    · exact ⟨_, exec_decs_of_error hcount, .rejectsStatus hcount⟩
  | fmts src =>
    obtain rfl | rfl : src = 0 ∨ src = 1 := by decide +revert
    · exact ⟨_, exec_fmts_of_level (fmtsLevel_zero s), .drivesScale (fmtsLevel_zero s)⟩
    · cases hreg : s.statusReg with
      | empty => exact ⟨_, exec_fmts_of_empty hreg, .takesEmptyReg hreg⟩
      | holds w =>
        have hlevel := fmtsLevel_one_of_holds hreg
        exact ⟨_, exec_fmts_of_level hlevel, .drivesScale hlevel⟩
  | clre => exact ⟨_, exec_clre s, .clears⟩

/-- The relation is `exec`: each effect is what the instruction answers, and it answers nothing else. -/
theorem exec_eq_next_iff {i : Instr} {s t : State} : exec i s = .next t ↔ Effect s i t := by
  constructor
  · intro h
    obtain ⟨u, hu, heffect⟩ := exec_completes i s
    cases hu.symm.trans h
    exact heffect
  · intro h
    cases h with
    | emits hentry => exact exec_of_romEntry hentry s
    | commitsFreq hok => exact exec_decf_of_ok hok
    | rejectsFreq herror => exact exec_decf_of_error herror
    | commitsStatus hcount => exact exec_decs_of_one hcount
    | rejectsStatus hcount => exact exec_decs_of_error hcount
    | drivesScale hlevel => exact exec_fmts_of_level hlevel
    | takesEmptyReg hempty => exact exec_fmts_of_empty hempty
    | clears => exact exec_clre s

/-! Frames -/

/-- Settles O18: a commit writes `FREQ_REG` and `CLASS_REG`, an error writes `LAST_ERR`. -/
theorem decfFrame : Obligations.DecfFrame := by
  intro s
  obtain ⟨t, ht, heffect⟩ := exec_completes .decf s
  refine ⟨t, ht, ?_⟩
  cases heffect with
  | emits hentry => cases hentry
  | commitsFreq => simp
  | rejectsFreq => simp

/-- Settles O31: the level's record is its row of R172. -/
theorem fmtsDrivesTheRecordOfItsLevel : Obligations.FmtsDrivesTheRecordOfItsLevel := by
  refine ⟨fun s => ?_, fun s w hreg => ?_, fun s hempty => exec_fmts_of_empty hempty⟩
  · rw [exec_fmts_of_level (fmtsLevel_zero s), scaleIsTheTabulatedLut]
    rfl
  · have hlevel : statusLevel w = w.setWidth 5 := (BitVec.setWidth_eq_extractLsb' (by decide)).symm
    rw [exec_fmts_of_level (fmtsLevel_one_of_holds hreg), scaleIsTheTabulatedLut, hlevel]
    rfl

/-- Settles O34: driving a record writes no register, and the fault, which writes `FAULT`, is source 1's on an empty
register. -/
theorem fmtsFrame : Obligations.FmtsFrame := by
  intro src s
  obtain ⟨t, ht, heffect⟩ := exec_completes (.fmts src) s
  refine ⟨t, ht, ?_⟩
  cases heffect with
  | emits hentry => cases hentry
  | drivesScale => simp
  | takesEmptyReg hempty => simp [hempty]

/-- Settles O38: R37's table, effect by effect. -/
theorem eachRegisterHasItsOnlyWriters : Obligations.EachRegisterHasItsOnlyWriters := by
  intro i s t h
  cases exec_eq_next_iff.mp h with
  | emits hentry => cases i <;> cases hentry <;> simp
  | commitsFreq => simp
  | rejectsFreq => simp
  | commitsStatus => simp
  | rejectsStatus => simp
  | drivesScale => simp
  | takesEmptyReg => simp
  | clears => simp

/-! Non-interference and idempotence -/

/-- Settles O44: no effect asks for `LAST_ERR`; a soft error and CLRE overwrite it, and the others keep it. -/
theorem lastErrorInfluencesNoInstruction : Obligations.LastErrorInfluencesNoInstruction := by
  intro i s t e h
  simp only [exec_eq_next_iff] at h ⊢
  cases h with
  | emits hentry => exact .inr ⟨rfl, .emits hentry⟩
  | commitsFreq hok => exact .inr ⟨rfl, .commitsFreq (s := { s with lastErr := e }) hok⟩
  | rejectsFreq herror => exact .inl (.rejectsFreq (s := { s with lastErr := e }) herror)
  | commitsStatus hcount => exact .inr ⟨rfl, .commitsStatus (s := { s with lastErr := e }) hcount⟩
  | rejectsStatus hcount => exact .inl (.rejectsStatus (s := { s with lastErr := e }) hcount)
  | drivesScale hlevel => exact .inr ⟨rfl, .drivesScale (s := { s with lastErr := e }) hlevel⟩
  | takesEmptyReg hempty => exact .inr ⟨rfl, .takesEmptyReg hempty⟩
  | clears => exact .inl .clears

/-- Settles O46: no effect writes what it depends on, and a second run has the same effect. -/
theorem instructionsAreIdempotentOnHeldRegisters : Obligations.InstructionsAreIdempotentOnHeldRegisters := by
  intro i s t h
  simp only [exec_eq_next_iff] at h ⊢
  cases h with
  | emits hentry => exact ⟨_, .emits hentry, rfl⟩
  | commitsFreq hok => exact ⟨_, .commitsFreq hok, rfl⟩
  | rejectsFreq herror => exact ⟨_, .rejectsFreq herror, rfl⟩
  | commitsStatus hcount => exact ⟨_, .commitsStatus hcount, rfl⟩
  | rejectsStatus hcount => exact ⟨_, .rejectsStatus hcount, rfl⟩
  | drivesScale hlevel => exact ⟨_, .drivesScale hlevel, rfl⟩
  | takesEmptyReg hempty => exact ⟨_, .takesEmptyReg hempty, rfl⟩
  | clears => exact ⟨_, .clears, rfl⟩

/-- With all 5 bytes counted there is no byte past the count; with fewer, the count alone is reported (R75, R128). -/
theorem parseFrequency_congr {p : InPorts} {rx : Vector Byte 5}
    (h : ∀ k : Fin 5, k.val < p.rxCount.toNat → rx.get k = p.rx.get k) :
    parseFrequency { p with rx := rx } = parseFrequency p := by
  by_cases hshort : p.rxCount.toNat < 5
  · rw [parseFrequency_of_short hshort, parseFrequency_of_short (p := { p with rx := rx }) hshort]
  · have hrx : rx = p.rx := Vector.ext fun k hk => h ⟨k, hk⟩ (by simp; omega)
    rw [hrx]

/-- Settles O45: DECS reads the one byte it counts, and the other instructions read none. -/
theorem bytesPastTheCountAreNotRead : Obligations.BytesPastTheCountAreNotRead := by
  intro i s t rx hrx h
  simp only [exec_eq_next_iff] at h ⊢
  have hparse := parseFrequency_congr hrx
  cases h with
  | emits hentry => exact .emits hentry
  | commitsFreq hok => exact .commitsFreq (s := { s with ports := { s.ports with rx := rx } }) (hparse.trans hok)
  | rejectsFreq herror => exact .rejectsFreq (s := { s with ports := { s.ports with rx := rx } }) (hparse.trans herror)
  | commitsStatus hcount =>
    have hbyte : s.ports.rx[0] = rx[0] := (hrx 0 (by rw [hcount]; decide)).symm
    rw [hbyte]
    exact .commitsStatus (s := { s with ports := { s.ports with rx := rx } }) hcount
  | rejectsStatus hcount => exact .rejectsStatus (s := { s with ports := { s.ports with rx := rx } }) hcount
  | drivesScale hlevel => exact .drivesScale (s := { s with ports := { s.ports with rx := rx } }) hlevel
  | takesEmptyReg hempty => exact .takesEmptyReg hempty
  | clears => exact .clears

end Sys2Proof.Machine
end

section
/-! What a soft error leaves in `LAST_ERR` (10_state.md rules R29 and R30, 60_exceptions.md rule R221), and what DECF
leaves in `FREQ_REG` (rules R24 and R35). -/
namespace Sys2Proof.Machine

/-! The words of the soft errors -/

@[simp] theorem lastErrSrc_word (e : SoftError) : lastErrSrc e.word = e.src := by
  apply BitVec.eq_of_toNat_eq
  rw [lastErrSrc, BitVec.extractLsb'_toNat, SoftError.toNat_word, Nat.shiftRight_eq_div_pow]
  omega

@[simp] theorem lastErrVal_word (e : SoftError) : lastErrVal e.word = e.value := by
  apply BitVec.eq_of_toNat_eq
  rw [lastErrVal, BitVec.extractLsb'_toNat, SoftError.toNat_word, Nat.shiftRight_eq_div_pow]
  omega

/-- Settles O37: the word has the five parts at the places the fields are read from. -/
theorem softErrorFieldLayout : Obligations.SoftErrorFieldLayout :=
  fun e => ⟨lastErrKind_word e, lastErrCause_word e, lastErrSrc_word e, lastErrAux_word e, lastErrVal_word e⟩

/-- No kind has the code 0, so no error's word is the one that stands for no error. -/
theorem SoftError.word_ne_zero (e : SoftError) : e.word ≠ 0x0000 := by
  intro hzero
  have hkind : e.kind.code = 0 := by rw [← lastErrKind_word, hzero]; rfl
  cases hk : e.kind <;> rw [hk] at hkind <;> cases hkind

/-- The word of an error of DECF is in R221's table. -/
theorem legalLastErr_of_parseFrequency {p : InPorts} {e : SoftError} (h : parseFrequency p = .error e) :
    LegalLastErr e.word := by
  rcases Nat.lt_trichotomy p.rxCount.toNat 5 with hshort | hcount | hexcess
  · rw [parseFrequency_of_short hshort] at h
    cases h
    exact .inr (.inl ⟨_, hshort, by simp [SoftError.toNat_word, ErrKind.code, ErrCause.code]⟩)
  · replace hcount : p.rxCount = 5 := BitVec.eq_of_toNat_eq hcount
    cases hfound : firstBadDigit (responseDigits p.rx) with
    | some found =>
      obtain ⟨pos, d⟩ := found
      obtain ⟨k, rfl, hk, hbad, -⟩ := firstBadDigitFrom_some 0 _ pos d hfound
      have hpos := toNat_ofNat_position hk
      rw [parseFrequency_of_badDigit hcount hfound] at h
      cases h
      refine .inr (.inr (.inr (.inr (.inr (.inl ⟨k, d.toNat, by omega, hbad, by omega, ?_⟩)))))
      simp [SoftError.toNat_word, ErrKind.code, ErrCause.code]
      omega
    | none =>
      have hgood := (firstBadDigitFrom_none_iff 0 _).mp hfound
      by_cases hmode : p.rx[4] ∈ modeSet
      · rw [parseFrequency_of_accepted ⟨hcount, hgood, hmode⟩] at h
        cases h
      · rw [parseFrequency_of_badMode hcount hgood hmode] at h
        cases h
        exact .inr (.inr (.inr (.inr (.inr (.inr ⟨_, hmode, by
          simp [SoftError.toNat_word, ErrKind.code, ErrCause.code]⟩)))))
  · rw [parseFrequency_of_excess hexcess] at h
    cases h
    exact .inr (.inr (.inr (.inl ⟨_, hexcess, Nat.le_of_lt_succ p.rxCount.isLt, by
      simp [SoftError.toNat_word, ErrKind.code, ErrCause.code]⟩)))

theorem statusError_word_of_excess {count : BitVec 3} (h : 2 ≤ count.toNat) :
    (statusError count).word.toNat = 0x9800 + 0x100 * count.toNat := by
  decide +revert

/-- The word of an error of DECS is in R221's table. -/
theorem legalLastErr_statusError {count : BitVec 3} (h : count ≠ 1) : LegalLastErr (statusError count).word := by
  obtain rfl | rfl | hmany := rxCount_cases count
  · exact .inr (.inr (.inl rfl))
  · exact absurd rfl h
  · exact .inr (.inr (.inr (.inr (.inl ⟨count.toNat, hmany, by omega, statusError_word_of_excess hmany⟩))))

/-- DECF fails on every response it does not accept. -/
theorem accepted_iff_parseFrequency_ok {p : InPorts} : AcceptedFrequency p ↔ ∃ r, parseFrequency p = .ok r := by
  constructor
  · exact fun h => ⟨_, parseFrequency_of_accepted h⟩
  · rintro ⟨r, hr⟩
    by_contra hnot
    obtain ⟨e, he⟩ := parseFrequency_of_not_accepted hnot
    cases hr.symm.trans he

/-- The decoder errors are the effects that record a soft error, and they record one of R221's words. -/
theorem exists_raiseSoft_of_decoder_error {i : Instr} {s : State}
    (h : (i = .decf ∧ ¬ AcceptedFrequency s.ports) ∨ (i = .decs ∧ s.ports.rxCount ≠ 1)) :
    ∃ e : SoftError, LegalLastErr e.word ∧
      ∀ u : State, u.ports = s.ports → exec i u = .next (u.raiseSoft e) := by
  rcases h with ⟨rfl, hnot⟩ | ⟨rfl, hcount⟩
  · obtain ⟨e, he⟩ := parseFrequency_of_not_accepted hnot
    exact ⟨e, legalLastErr_of_parseFrequency he, fun u hu => exec_decf_of_error (hu ▸ he)⟩
  · exact ⟨_, legalLastErr_statusError hcount, fun u hu => hu ▸ exec_decs_of_error (hu ▸ hcount)⟩

/-- Settles O36: effect by effect; what a decoder's error records depends on the ports alone. -/
theorem lastErrorWritePolicy : Obligations.LastErrorWritePolicy := by
  intro i s
  obtain ⟨t, ht, heffect⟩ := exec_completes i s
  refine ⟨t, ht, ?_, fun herror => ?_, fun hkeeps => ?_⟩
  · rintro rfl
    cases (exec_clre s).symm.trans ht
    rfl
  · obtain ⟨e, hlegal, hraise⟩ := exists_raiseSoft_of_decoder_error herror
    cases (hraise s rfl).symm.trans ht
    exact ⟨hlegal, e.word_ne_zero, fun w => ⟨_, hraise { s with lastErr := w } rfl, rfl⟩⟩
  · cases heffect with
    | emits => rfl
    | commitsFreq => rfl
    | commitsStatus => rfl
    | drivesScale => rfl
    | takesEmptyReg => rfl
    | rejectsFreq hreject =>
      have hacc : AcceptedFrequency s.ports := by simpa using hkeeps
      obtain ⟨r, hr⟩ := accepted_iff_parseFrequency_ok.mp hacc
      cases hr.symm.trans hreject
    | rejectsStatus hcount => exact absurd (by simpa using hkeeps) hcount
    | clears => simp at hkeeps

/-! The readings of DECF -/

/-- The digits of a frequency that came from 8 good digits are those digits. -/
theorem decimalDigits_decimalValue {ds : List Nibble} (hlen : ds.length = 8) (hgood : ∀ d ∈ ds, GoodDigit d) :
    decimalDigits (decimalValue ds) = ds := by
  have hlt := decimalValue_lt hgood
  rw [hlen] at hlt
  exact eq_of_decimalValue_eq (fun _ => goodDigit_of_mem_decimalDigits) hgood hlen.symm
    (decimalValue_decimalDigits hlt)

theorem legal_of_parseFrequency {p : InPorts} {r : FreqReading} (h : parseFrequency p = .ok r) : r.Legal := by
  have hacc := accepted_iff_parseFrequency_ok.mpr ⟨r, h⟩
  have ⟨_, hgood, hmode⟩ := hacc
  have hr := Except.ok.inj (h.symm.trans (parseFrequency_of_accepted hacc))
  have hhz : r.hz.toNat = 10 * decimalValue (responseDigits p.rx).toList := by rw [hr]; exact hzOf_toNat hgood
  have hlen : (responseDigits p.rx).toList.length = 8 := Vector.length_toList
  have hlt := decimalValue_lt hgood
  rw [hlen] at hlt
  refine ⟨by omega, by omega, ?_, hr ▸ hmode⟩
  rw [displayFromHz, hhz, Nat.mul_div_cancel_left _ (by decide), decimalDigits_decimalValue hlen hgood, hr]
  exact displayOf_toList _

/-- Settles O39: only a commit of DECF writes `FREQ_REG`, and it commits the reading of an accepted response. -/
theorem freqRegStaysLegal : Obligations.FreqRegStaysLegal := by
  intro i s t hlegal h r hr
  cases exec_eq_next_iff.mp h with
  | commitsFreq hok =>
    cases hr
    exact legal_of_parseFrequency hok
  | emits => exact hlegal r hr
  | rejectsFreq => exact hlegal r hr
  | commitsStatus => exact hlegal r hr
  | rejectsStatus => exact hlegal r hr
  | drivesScale => exact hlegal r hr
  | takesEmptyReg => exact hlegal r hr
  | clears => exact hlegal r hr

end Sys2Proof.Machine
end

section
/-! The machine's invariant (10_state.md rules R24 to R36): it holds after reset, each shared operation keeps it, and so
every step does. With it the other properties of a step: the history grows at its end (R34), and no register is emptied
but by a reset (R28). -/
namespace Sys2Proof.Machine

/-! What the operations keep -/

@[simp] theorem statusLevel_packStatus (sql tmm dcen : BitVec 1) (slvl : BitVec 5) :
    statusLevel (packStatus sql tmm dcen slvl) = slvl := by
  decide +revert

namespace State.Inv

variable {s : State} (h : s.Inv)
include h

theorem quiet : s.quiet.Inv :=
  { h with tx := List.nil_suffix, sm := nofun }

theorem transmit (es : List TxEvent) : (s.quiet.transmit es).Inv :=
  { h with tx := List.suffix_append s.txh es, sm := nofun }

theorem commitFreq {r : FreqReading} (hr : r.Legal) : (s.commitFreq Config.installed.cfg r).Inv :=
  { h with freq := fun _ hreg => Held.holds.inj hreg ▸ hr, cls := rfl }

theorem commitStatus (b : Byte) : (s.commitStatus (decodeStatus Config.installed.cfg b)).Inv :=
  { h with status := fun _ hreg => ⟨rawLevel b, Held.holds.inj hreg ▸ statusLevel_packStatus _ _ _ _⟩ }

theorem raiseSoft {e : SoftError} (he : LegalLastErr e.word) : (s.raiseSoft e).Inv :=
  { h.quiet with err := he }

theorem clearError : s.clearError.Inv :=
  { h with err := .inl rfl }

theorem driveSm (level : BitVec 5) : (s.driveSm (scaleOf level)).Inv :=
  { h with sm := fun _ ho => ⟨level, (Option.some.inj ho).symm⟩ }

theorem raiseFault {k : FaultKind} {cmd : Byte} (hk : LegalFault ⟨k.code, cmd⟩) : (s.raiseFault k cmd).Inv :=
  { h.quiet with flt := hk }

theorem drivePorts (p : InPorts) : (s.drivePorts p).Inv :=
  { h with }

theorem setPending (rest : List HostAction) : ({ s with pending := rest } : State).Inv :=
  { h with }

theorem setRdOut (v : Option ReadValue) : ({ s with rdOut := v } : State).Inv :=
  { h with }

theorem hostRead (r : ReadPort) : (s.hostRead r).Inv := by
  rcases s.hostRead_cases r with ⟨v, -, heq⟩ | ⟨-, -, heq⟩ | ⟨-, -, heq⟩ <;> rw [heq]
  · exact h.setRdOut _
  · exact h.setRdOut _
  · exact (h.raiseFault (.inr (.inr (.inr rfl)))).setRdOut none

end State.Inv

/-! The statements -/

/-- Settles O40: every register is empty or 0, and no output is driven. -/
theorem resetStateMeetsTheInvariant : Obligations.ResetStateMeetsTheInvariant where
  freq := nofun
  status := nofun
  cls := rfl
  err := .inl rfl
  flt := .inl rfl
  tx := List.nil_suffix
  sm := nofun

theorem State.Inv.exec {i : Instr} {s t : State} (hs : s.Inv) (h : exec i s = .next t) : t.Inv := by
  cases exec_eq_next_iff.mp h with
  | emits => exact hs.transmit _
  | commitsFreq hok => exact hs.quiet.commitFreq (legal_of_parseFrequency hok)
  | rejectsFreq herror => exact hs.raiseSoft (legalLastErr_of_parseFrequency herror)
  | commitsStatus => exact hs.quiet.commitStatus _
  | rejectsStatus hcount => exact hs.raiseSoft (legalLastErr_statusError hcount)
  | drivesScale => exact hs.quiet.driveSm _
  | takesEmptyReg => exact hs.raiseFault (.inr (.inr (.inl rfl)))
  | clears => exact hs.quiet.clearError

/-- Settles O41: each action of the host is a sequence of operations that keep the invariant, and a reset gives it. -/
theorem everyStepKeepsTheInvariant : Obligations.EveryStepKeepsTheInvariant := by
  intro s t hs h
  rcases step_cases h with ⟨-, rfl⟩ | ⟨r, rest, -, rfl⟩ | ⟨rest, -, rfl⟩ | ⟨p, rest, i, -, -, -, hexec⟩ |
    ⟨p, rest, why, -, -, hd, rfl⟩
  · exact hs
  · exact (hs.setPending rest).hostRead r
  · exact resetStateMeetsTheInvariant.setPending rest
  · exact ((hs.setPending rest).drivePorts p).exec hexec
  · refine ((hs.setPending rest).drivePorts p).raiseFault (.inr (.inl ⟨rfl, ?_⟩))
    rw [hd]
    rfl

/-! The history and the `valid` bits -/

theorem txh_prefix_of_exec {i : Instr} {s t : State} (h : exec i s = .next t) : s.txh <+: t.txh := by
  cases exec_eq_next_iff.mp h with
  | emits => exact List.prefix_append _ _
  | commitsFreq | rejectsFreq | commitsStatus | rejectsStatus | drivesScale | takesEmptyReg | clears =>
    exact List.prefix_rfl

/-- Settles O42: only an instruction writes `TXH`, and it appends to it. -/
theorem transmitHistoryIsAppendOnly : Obligations.TransmitHistoryIsAppendOnly := by
  intro s t hreset h
  rcases step_cases h with ⟨-, rfl⟩ | ⟨r, rest, -, rfl⟩ | ⟨rest, hp, -⟩ | ⟨p, rest, i, -, -, -, hexec⟩ |
    ⟨p, rest, why, -, -, -, rfl⟩
  · exact List.prefix_rfl
  · simp
  · exact absurd (congrArg List.head? hp) hreset
  · have hprefix := txh_prefix_of_exec hexec
    exact hprefix
  · exact List.prefix_rfl

/-- The held registers that hold a value in `s` hold one in `t`. -/
def KeepsValid (s t : State) : Prop :=
  (s.freqReg.valid = true → t.freqReg.valid = true) ∧ (s.statusReg.valid = true → t.statusReg.valid = true) ∧
    (s.classReg.valid = true → t.classReg.valid = true)

theorem KeepsValid.of_held_eq {s t : State} (h : t.held = s.held) : KeepsValid s t := by
  simp only [State.held, Prod.mk.injEq] at h
  obtain ⟨hfreq, hstatus, hclass⟩ := h
  simp [KeepsValid, hfreq, hstatus, hclass]

theorem keepsValid_of_exec {i : Instr} {s t : State} (h : exec i s = .next t) : KeepsValid s t := by
  cases exec_eq_next_iff.mp h with
  | commitsFreq => exact ⟨fun _ => rfl, id, fun _ => rfl⟩
  | commitsStatus => exact ⟨id, fun _ => rfl, id⟩
  | emits | rejectsFreq | rejectsStatus | drivesScale | takesEmptyReg | clears => exact .of_held_eq rfl

/-- Settles O43: the commits are the only writes to the held registers, and a commit leaves a value. -/
theorem onlyResetEmptiesAHeldRegister : Obligations.OnlyResetEmptiesAHeldRegister := by
  intro s t hreset h
  rcases step_cases h with ⟨-, rfl⟩ | ⟨r, rest, -, rfl⟩ | ⟨rest, hp, -⟩ | ⟨p, rest, i, -, -, -, hexec⟩ |
    ⟨p, rest, why, -, -, -, rfl⟩
  · exact KeepsValid.of_held_eq rfl
  · exact KeepsValid.of_held_eq (by simp [State.held])
  · exact absurd (congrArg List.head? hp) hreset
  · have hkeeps := keepsValid_of_exec hexec
    exact hkeeps
  · exact KeepsValid.of_held_eq rfl

end Sys2Proof.Machine
end

section
/-! The events of a frame sequence (40_frame_encoder.md rules R104 and R105): how many of each kind, which gaps, and the
ends. The recursion is on the frames after the first. -/
namespace Sys2Proof.Machine

theorem macroEvents_singleton (f : Frame) : macroEvents [f] = [.emit f] := rfl

theorem macroEvents_cons_cons (f g : Frame) (fs : List Frame) :
    macroEvents (f :: g :: fs) = .emit f :: .gap 500 :: macroEvents (g :: fs) := rfl

theorem countP_isEmit_macroEvents (f : Frame) (fs : List Frame) :
    (macroEvents (f :: fs)).countP TxEvent.isEmit = fs.length + 1 := by
  induction fs generalizing f with
  | nil => rfl
  | cons g fs ih =>
    rw [macroEvents_cons_cons, List.countP_cons_of_pos rfl, List.countP_cons_of_neg Bool.false_ne_true, ih,
      List.length_cons]

theorem countP_not_isEmit_macroEvents (f : Frame) (fs : List Frame) :
    ((macroEvents (f :: fs)).countP fun e => !e.isEmit) = fs.length := by
  induction fs generalizing f with
  | nil => rfl
  | cons g fs ih => simp [macroEvents_cons_cons, ih]

theorem eq_of_gap_mem_macroEvents {f : Frame} {fs : List Frame} {ms : Nat} (h : .gap ms ∈ macroEvents (f :: fs)) :
    ms = 500 := by
  induction fs generalizing f with
  | nil => simp [macroEvents_singleton] at h
  | cons g fs ih =>
    simp only [macroEvents_cons_cons, List.mem_cons, reduceCtorEq, false_or, TxEvent.gap.injEq] at h
    exact h.elim id ih

theorem head?_macroEvents (f : Frame) (fs : List Frame) : (macroEvents (f :: fs)).head? = some (.emit f) := by
  cases fs <;> rfl

theorem getLast?_macroEvents (f : Frame) (fs : List Frame) :
    ∃ g, (macroEvents (f :: fs)).getLast? = some (.emit g) := by
  induction fs generalizing f with
  | nil => exact ⟨f, rfl⟩
  | cons g fs ih =>
    obtain ⟨last, hlast⟩ := ih g
    exact ⟨last, by simp [macroEvents_cons_cons, List.getLast?_cons, hlast]⟩

/-- Settles O14: a well-formed macro has 1 to 5 frames, and its events are those frames with gaps between. -/
theorem encmRecordsOneGapFewerThanFrames : Obligations.EncmRecordsOneGapFewerThanFrames := by
  intro m s
  obtain ⟨hpos, hmax⟩ := macro_length_of_wf Config.installed m
  refine ⟨_, encmEmitsTheMacroWithGaps m s, _, hpos, hmax, ?_⟩
  obtain ⟨f, fs, hmacro⟩ := List.exists_cons_of_length_pos hpos
  simp only [hmacro, List.length_cons, Nat.add_sub_cancel]
  exact ⟨countP_isEmit_macroEvents f fs, countP_not_isEmit_macroEvents f fs, fun _ => eq_of_gap_mem_macroEvents,
    ⟨f, head?_macroEvents f fs⟩, getLast?_macroEvents f fs⟩

end Sys2Proof.Machine
end

section
/-! The transport and the host at the line (60_exceptions.md rule R236): what waiting, reading and carrying out a step's
output leave in the transport. -/
namespace Sys2Proof.Machine

@[simp] theorem Transport.sleep_clock (t : Transport) (ms : Nat) : (t.sleep ms).clock = t.clock + ms := rfl
@[simp] theorem Transport.sleep_written (t : Transport) (ms : Nat) : (t.sleep ms).written = t.written := rfl

/-- With nothing to come only the clock moves. -/
theorem Transport.sleep_of_silent {t : Transport} (h : t.coming = []) (ms : Nat) :
    t.sleep ms = { t with clock := t.clock + ms } := by
  simp [Transport.sleep, Transport.arrive, h]

/-- With nothing to come the poll for data changes the clock only. -/
theorem Transport.pollForData_of_silent (polls : Nat) {t : Transport} (h : t.coming = []) :
    ∃ c, t.pollForData polls = { t with clock := c } := by
  induction polls generalizing t with
  | zero => exact ⟨t.clock, rfl⟩
  | succ polls ih =>
    rw [Transport.pollForData]
    split
    next =>
      rw [Transport.sleep_of_silent h]
      exact ih h
    next => exact ⟨t.clock, rfl⟩

/-- A frequency query gets no byte when the buffer is empty and nothing is to come (decision D27). -/
theorem frequencyResponse_of_silent {t : Transport} (hbuf : t.inBuf = []) (hcoming : t.coming = []) :
    ∃ c, frequencyResponse t = ([], { t with clock := c }) := by
  obtain ⟨c, hpoll⟩ := Transport.pollForData_of_silent (freqTimeoutMs / freqPollMs) hcoming
  exact ⟨c, by simp [frequencyResponse, hpoll, Transport.bytesAvailable, hbuf]⟩

/-- A read of one byte takes a byte that is already there. -/
theorem Transport.read_one_of_available {t : Transport} {b : Byte} {rest : List Byte} (h : t.inBuf = b :: rest) :
    t.read 1 = ([b], { t with inBuf := rest }) := by
  simp [Transport.read, Transport.await_of_available 1 readTimeoutMs t (by simp [Transport.bytesAvailable, h]), h]

theorem carryOut_emit (extra : List Nat) (f : Frame) (es : List TxEvent) (t : Transport) :
    carryOut extra (.emit f :: es) t = carryOut extra es { t with written := t.written ++ [(t.clock, f.toList)] } := rfl

theorem carryOut_gap (extra : List Nat) (ms : Nat) (es : List TxEvent) (t : Transport) :
    carryOut extra (.gap ms :: es) t = carryOut extra.tail es (t.sleep (ms + extra.headD 0)) := rfl

/-- Carrying out the events of a frame sequence writes the frames in order, from the clock's time on and each at least
500 ms after the one before (R194, R256). -/
theorem carryOut_macroEvents (f : Frame) (fs : List Frame) (extra : List Nat) (t : Transport) :
    ∃ ws, (carryOut extra (macroEvents (f :: fs)) t).written = t.written ++ ws ∧
      ws.map Prod.snd = (f :: fs).map Vector.toList ∧ (∀ w ∈ ws, t.clock ≤ w.1) ∧
      ws.Pairwise fun a b => a.1 + 500 ≤ b.1 := by
  induction fs generalizing f extra t with
  | nil => exact ⟨[(t.clock, f.toList)], rfl, rfl, by simp, by simp⟩
  | cons g fs ih =>
    rw [macroEvents_cons_cons, carryOut_emit, carryOut_gap]
    obtain ⟨ws, hwritten, hframes, hfrom, hapart⟩ := ih g extra.tail
      (({ t with written := t.written ++ [(t.clock, f.toList)] } : Transport).sleep (500 + extra.headD 0))
    refine ⟨(t.clock, f.toList) :: ws, ?_, ?_, ?_, ?_⟩
    · simpa using hwritten
    · simpa using hframes
    · refine List.forall_mem_cons.mpr ⟨le_rfl, fun w hw => ?_⟩
      have hlate := hfrom w hw
      simp only [Transport.sleep_clock] at hlate
      omega
    · refine List.pairwise_cons.mpr ⟨fun w hw => ?_, hapart⟩
      have hlate := hfrom w hw
      simp only [Transport.sleep_clock] at hlate
      omega

end Sys2Proof.Machine
end

section
/-! The host sequences, by 44_session_control.md: QUERYF (R192), QUERYS (R193), RUNMACRO (R194), and the polling loop
and its tick (R197). -/
namespace Sys2Proof.Machine

/-! Issuing an instruction -/

/-- The state in which an issued instruction runs: its word on the command port, and no read value. -/
def State.commanded (b : State) (i : Instr) : State :=
  { b with ports := { b.ports with cmd := encode i }, rdOut := none }

/-- The state after an issued instruction that transmits `es`. -/
def State.issuedEncoder (b : State) (i : Instr) (es : List TxEvent) : State :=
  { b.commanded i with txh := b.txh ++ es, txOut := es, smOut := none }

@[simp] theorem State.raiseSoft_held (b : State) (e : SoftError) : (b.raiseSoft e).held = b.held := rfl

@[simp] theorem State.commanded_frame (b : State) (i : Instr) :
    (b.commanded i).held = b.held ∧ (b.commanded i).lastErr = b.lastErr ∧ (b.commanded i).fault = b.fault ∧
      (b.commanded i).txh = b.txh :=
  ⟨rfl, rfl, rfl, rfl⟩

@[simp] theorem State.issuedEncoder_frame (b : State) (i : Instr) (es : List TxEvent) :
    (b.issuedEncoder i es).held = b.held ∧ (b.issuedEncoder i es).lastErr = b.lastErr ∧
      (b.issuedEncoder i es).fault = b.fault ∧ (b.issuedEncoder i es).txh = b.txh ++ es :=
  ⟨rfl, rfl, rfl, rfl⟩

/-- Received bytes stand on the ports alone (R75). -/
@[simp] theorem State.receive_frame (b : State) (bytes : List Byte) :
    (b.receive bytes).held = b.held ∧ (b.receive bytes).lastErr = b.lastErr ∧ (b.receive bytes).fault = b.fault ∧
      (b.receive bytes).txh = b.txh :=
  ⟨rfl, rfl, rfl, rfl⟩

theorem issue_eq_exec {b : State} (h : b.fault.code = 0) (i : Instr) : issue i b = exec i (b.commanded i) :=
  issue_eq i b h

theorem issue_encf {b : State} (h : b.fault.code = 0) :
    issue .encf b = .next (b.issuedEncoder .encf [.emit Config.installed.cfg.frameRdFreq]) :=
  (issue_eq_exec h .encf).trans (encfEmitsTheReadFrequencyFrame _)

theorem issue_encs {b : State} (h : b.fault.code = 0) :
    issue .encs b = .next (b.issuedEncoder .encs [.emit Config.installed.cfg.frameRdStat]) :=
  (issue_eq_exec h .encs).trans (encsEmitsTheReadStatusFrame _)

theorem issue_encm {b : State} (h : b.fault.code = 0) (m : BitVec 2) :
    issue (.encm m) b = .next (b.issuedEncoder (.encm m) (macroEvents (Config.installed.cfg.macros.get m.toFin))) :=
  (issue_eq_exec h (.encm m)).trans (encmEmitsTheMacroWithGaps m _)

/-- DECF issued to a block that is not faulted completes and leaves `FAULT` and `TXH`. -/
theorem issue_decf {b : State} (h : b.fault.code = 0) :
    ∃ t, issue .decf b = .next t ∧ t.fault = b.fault ∧ t.txh = b.txh := by
  obtain ⟨t, ht, -, hfault, htxh, -⟩ := decfFrame (b.commanded .decf)
  exact ⟨t, (issue_eq_exec h .decf).trans ht, hfault, htxh⟩

/-- DECF issued with no byte received records a timeout. -/
theorem issue_decf_of_none {b : State} (h : b.fault.code = 0) (hcount : b.ports.rxCount = 0) :
    issue .decf b = .next ((b.commanded .decf).raiseSoft ⟨.transportTimeout, .shortRead, 0, 0, 0⟩) := by
  have hports : (b.commanded .decf).ports.rxCount = 0 := hcount
  have hshort := parseFrequency_of_short (p := (b.commanded .decf).ports) (by rw [hports]; decide)
  rw [hports] at hshort
  rw [issue_eq_exec h, exec_decf_of_error hshort]

/-- DECS issued to a block that is not faulted completes and leaves `FAULT` and `TXH`. -/
theorem issue_decs {b : State} (h : b.fault.code = 0) :
    ∃ t, issue .decs b = .next t ∧ t.fault = b.fault ∧ t.txh = b.txh := by
  obtain ⟨t, ht, -, -, -, -, hfault, htxh, -⟩ := decsCommitsOrKeepsStatus (b.commanded .decs)
  exact ⟨t, (issue_eq_exec h .decs).trans ht, hfault, htxh⟩

/-- DECS issued with one byte received commits that byte's word. -/
theorem issue_decs_of_one {b : State} (h : b.fault.code = 0) (hcount : b.ports.rxCount = 1) :
    issue .decs b = .next
      ((b.commanded .decs).quiet.commitStatus (decodeStatus Config.installed.cfg b.ports.rx[0])) :=
  (issue_eq_exec h .decs).trans (exec_decs_of_one hcount)

/-! QUERYF -/

/-- The bytes of the answer to the read-frequency frame, and the transport after them (R192). -/
def Session.freqAnswer (x : Session) : List Byte × Transport :=
  frequencyResponse (x.link.resetInputBuffer.write Config.installed.cfg.frameRdFreq.toList).2

/-- The block after ENCF, with the answer on its ports. -/
def Session.freqReceived (x : Session) : State :=
  (x.block.issuedEncoder .encf [.emit Config.installed.cfg.frameRdFreq]).receive x.freqAnswer.1

@[simp] theorem Session.freqReceived_frame (x : Session) :
    x.freqReceived.held = x.block.held ∧ x.freqReceived.lastErr = x.block.lastErr ∧
      x.freqReceived.fault = x.block.fault ∧
      x.freqReceived.txh = x.block.txh ++ [.emit Config.installed.cfg.frameRdFreq] := by
  simp [Session.freqReceived]

/-- QUERYF is DECF on the answer. -/
theorem Session.queryF_eq {x : Session} (h : x.block.fault.code = 0) :
    x.queryF = andThen (issue .decf x.freqReceived) fun b => .next ⟨b, x.freqAnswer.2⟩ := by
  rw [Session.queryF, issue_encf h]
  rfl

/-- A frequency query completes: it emits the read-frequency frame and leaves `FAULT`. -/
theorem Session.queryF_completes {x : Session} (h : x.block.fault.code = 0) :
    ∃ y, x.queryF = .next y ∧ y.block.fault = x.block.fault ∧
      y.block.txh = x.block.txh ++ [.emit Config.installed.cfg.frameRdFreq] := by
  obtain ⟨b, hb, hfault, htxh⟩ := issue_decf (b := x.freqReceived) (by simpa using h)
  exact ⟨⟨b, x.freqAnswer.2⟩, by rw [Session.queryF_eq h, hb, andThen_next], by simp [hfault], by simp [htxh]⟩

/-- Settles O50: the poll finds nothing, so DECF is presented no byte. -/
theorem frequencyQueryTimesOut : Obligations.FrequencyQueryTimesOut := by
  intro x h hcoming
  obtain ⟨c, hanswer⟩ : ∃ c, x.freqAnswer = ([], { (x.link.resetInputBuffer.write
      Config.installed.cfg.frameRdFreq.toList).2 with clock := c }) := frequencyResponse_of_silent rfl hcoming
  have hcount : x.freqReceived.ports.rxCount = 0 :=
    congrArg (fun answer : List Byte × Transport => BitVec.ofNat 3 answer.1.length) hanswer
  rw [Session.queryF_eq h, issue_decf_of_none (by simpa using h) hcount, andThen_next, hanswer]
  exact ⟨_, rfl, rfl, by simp, by simp, rfl⟩

/-- Settles O51: the query uses the transport only with its input buffer reset. -/
theorem frequencyQueryDiscardsStaleInput : Obligations.FrequencyQueryDiscardsStaleInput := by
  intro x stale
  have hreset : ({ x.link with inBuf := stale } : Transport).resetInputBuffer = x.link.resetInputBuffer := rfl
  simp only [Session.queryF, hreset]

/-! QUERYS -/

/-- The byte of the answer to the read-status frame, if there is one, and the transport after it (R193). -/
def Session.statusAnswer (x : Session) : List Byte × Transport :=
  (x.link.write Config.installed.cfg.frameRdStat.toList).2.read 1

/-- The block after ENCS, with the answer on its ports. -/
def Session.statusReceived (x : Session) : State :=
  (x.block.issuedEncoder .encs [.emit Config.installed.cfg.frameRdStat]).receive x.statusAnswer.1

@[simp] theorem Session.statusReceived_frame (x : Session) :
    x.statusReceived.held = x.block.held ∧ x.statusReceived.lastErr = x.block.lastErr ∧
      x.statusReceived.fault = x.block.fault ∧
      x.statusReceived.txh = x.block.txh ++ [.emit Config.installed.cfg.frameRdStat] := by
  simp [Session.statusReceived]

/-- QUERYS is DECS on the answer. -/
theorem Session.queryS_eq {x : Session} (h : x.block.fault.code = 0) :
    x.queryS = andThen (issue .decs x.statusReceived) fun b => .next ⟨b, x.statusAnswer.2⟩ := by
  rw [Session.queryS, issue_encs h]
  rfl

/-- A status query completes: it emits the read-status frame and leaves `FAULT`. -/
theorem Session.queryS_completes {x : Session} (h : x.block.fault.code = 0) :
    ∃ y, x.queryS = .next y ∧ y.block.fault = x.block.fault ∧
      y.block.txh = x.block.txh ++ [.emit Config.installed.cfg.frameRdStat] := by
  obtain ⟨b, hb, hfault, htxh⟩ := issue_decs (b := x.statusReceived) (by simpa using h)
  exact ⟨⟨b, x.statusAnswer.2⟩, by rw [Session.queryS_eq h, hb, andThen_next], by simp [hfault], by simp [htxh]⟩

/-- Settles O52: the read finds the stale byte and does not wait for another. -/
theorem statusQueryDecodesAStaleByte : Obligations.StatusQueryDecodesAStaleByte := by
  intro x b rest h hbuf
  have hanswer : x.statusAnswer =
      ([b], { (x.link.write Config.installed.cfg.frameRdStat.toList).2 with inBuf := rest }) :=
    Transport.read_one_of_available hbuf
  have hcount : x.statusReceived.ports.rxCount = 1 :=
    congrArg (fun answer : List Byte × Transport => BitVec.ofNat 3 answer.1.length) hanswer
  have hbyte : x.statusReceived.ports.rx[0] = b := by
    simp [Session.statusReceived, State.receive, hanswer]
  rw [Session.queryS_eq h, issue_decs_of_one (by simpa using h) hcount, hbyte, andThen_next, hanswer]
  exact ⟨_, rfl, rfl, by simp, rfl⟩

/-! RUNMACRO -/

theorem Session.runMacro_eq {x : Session} (h : x.block.fault.code = 0) (extra : List Nat) (m : BitVec 2) :
    x.runMacro Config.installed.cfg extra (Config.installed.cfg.macroNames.get m.toFin) =
      .next ⟨x.block.issuedEncoder (.encm m) (macroEvents (Config.installed.cfg.macros.get m.toFin)),
        carryOut extra (macroEvents (Config.installed.cfg.macros.get m.toFin)) x.link⟩ := by
  simp only [Session.runMacro, macroIndex_get, issue_encm h, andThen_next]
  rfl

/-- Settles O53: the name finds its macro, and the host carries out the macro's events. -/
theorem macroFramesAreWrittenInOrderAndApart : Obligations.MacroFramesAreWrittenInOrderAndApart := by
  intro x m extra h
  obtain ⟨hpos, -⟩ := macro_length_of_wf Config.installed m
  obtain ⟨f, fs, hmacro⟩ := List.exists_cons_of_length_pos hpos
  obtain ⟨ws, hwritten, hframes, -, hapart⟩ := carryOut_macroEvents f fs extra x.link
  rw [← hmacro] at hwritten hframes
  exact ⟨_, ws, Session.runMacro_eq h extra m, hwritten, hframes, hapart⟩

/-! The polling loop -/

/-- A port that is read stands in the readings with its value. -/
theorem mem_readings {b : State} {r : ReadPort} {v : ReadValue} (hr : r ∈ portsRead b) (hv : b.readValue r = some v) :
    (r, some v) ∈ (portsRead b).map fun r => (r, b.readValue r) :=
  List.mem_map.mpr ⟨r, hr, by rw [hv]⟩

/-- A tick after its two queries: it reads the ports that have a value, and takes the error. -/
theorem Session.tick_of_queries {x y z : Session} (hy : x.queryF = .next y) (hz : y.queryS = .next z)
    (h : z.block.fault.code = 0) :
    ∃ b, x.tick = .next (⟨(portsRead z.block).map fun r => (r, z.block.readValue r), some (.lastErr z.block.lastErr)⟩,
        { z with block := b }) ∧
      b.lastErr = 0x0000 ∧ b.held = z.block.held ∧ b.fault = z.block.fault ∧ b.txh = z.block.txh := by
  obtain ⟨v, hread⟩ := readRegisters_eq z.block
  obtain ⟨b, htake, herr, hheld, hfault, htxh, -⟩ := takeError_eq { z.block with rdOut := v } h
  exact ⟨b, by rw [Session.tick, hy, andThen_next, hz, andThen_next, hread, andThen_next, htake, andThen_next],
    herr, hheld, hfault, htxh⟩

/-- Settles O55: the ports read are those of the registers that hold a value, and each of them has one. -/
theorem pollingTickReportsAndClearsTheError : Obligations.PollingTickReportsAndClearsTheError := by
  intro x h
  obtain ⟨y, hy, hyfault, -⟩ := Session.queryF_completes h
  obtain ⟨z, hz, hzfault, -⟩ := Session.queryS_completes (x := y) (by rw [hyfault, h])
  obtain ⟨b, htick, herr, hheld, hfault, htxh⟩ := Session.tick_of_queries hy hz (by rw [hzfault, hyfault, h])
  refine ⟨y, z, _, b, hy, hz, htick, rfl, herr, hheld, hfault, htxh, fun v hv => ⟨?_, ?_, ?_⟩, fun w hw => ?_,
    fun c hc => ⟨?_, ?_, ?_⟩, fun q hq => ?_⟩
  iterate 3 exact mem_readings (by simp [portsRead, hv]) (by simp [State.readValue, hv])
  · exact mem_readings (by simp [portsRead, hw]) (by simp [State.readValue, hw])
  iterate 3 exact mem_readings (by simp [portsRead, hc]) (by simp [State.readValue, hc])
  · obtain ⟨r, hr, rfl⟩ := List.mem_map.mp hq
    exact portsRead_ne_none z.block r hr

/-- A tick completes: it emits the two read frames and leaves `FAULT`. -/
theorem Session.tick_completes {x : Session} (h : x.block.fault.code = 0) :
    ∃ r y, x.tick = .next (r, y) ∧ y.block.fault = x.block.fault ∧ y.block.txh = x.block.txh ++
      [.emit Config.installed.cfg.frameRdFreq, .emit Config.installed.cfg.frameRdStat] := by
  obtain ⟨y, hy, hyfault, hytxh⟩ := Session.queryF_completes h
  obtain ⟨z, hz, hzfault, hztxh⟩ := Session.queryS_completes (x := y) (by rw [hyfault, h])
  obtain ⟨b, htick, -, -, hfault, htxh⟩ := Session.tick_of_queries hy hz (by rw [hzfault, hyfault, h])
  exact ⟨_, _, htick, by rw [hfault, hzfault, hyfault], by rw [htxh, hztxh, hytxh, List.append_assoc]; rfl⟩

/-- Settles O56: each tick adds the two frames, and the wait after it makes up the cadence. -/
theorem pollingLoopRepeatsTheTwoQueries : Obligations.PollingLoopRepeatsTheTwoQueries := by
  intro cadence ticks
  induction ticks with
  | zero => exact fun x h => ⟨[], x, rfl, rfl, h, by simp, by simp⟩
  | succ ticks ih =>
    intro x h
    obtain ⟨r, y, htick, hfault, htxh⟩ := Session.tick_completes h
    obtain ⟨hclock, hblock⟩ := Session.waitUntil_spec (x.link.clock + cadence) y
    obtain ⟨rs, z, hloop, hlen, hzfault, hztxh, hzclock⟩ :=
      ih (y.waitUntil (x.link.clock + cadence)) (by rw [hblock, hfault, h])
    refine ⟨r :: rs, z, ?_, ?_, hzfault, ?_, ?_⟩
    · rw [Session.pollingLoop, htick, andThen_next, hloop, andThen_next]
    · rw [List.length_cons, hlen]
    · rw [hztxh, hblock, htxh, List.replicate_succ, List.flatten_cons, List.append_assoc]
    · rw [Nat.add_mul]
      omega

end Sys2Proof.Machine
end
